-- ==== Sys2Proof/Word.lean ====
section
/-! DEFINITION. The word types of the CHIP-8 core (spec/00_scope.md R6: bit 0 is the least significant
bit, every value is unsigned). -/

namespace Sys2Proof

/-- A memory cell or a general register (R5: REG_W = 8). -/
abbrev Byte := BitVec 8

/-- An instruction word (R70) and the register I (R24). -/
abbrev Word := BitVec 16

/-- A memory address, the PC and a stack slot (R5: ADDR_W = PC_W = 12). -/
abbrev Addr := BitVec 12

/-- A 4-bit subfield of an instruction word (R71). -/
abbrev Nibble := BitVec 4

/-- The index of a general register, 0 to 15 (R21). -/
abbrev Reg := BitVec 4

/-- V0, the implicit offset operand of Bnnn (R21). -/
abbrev V0 : Reg := 0

/-- VF, the only flag (R22). -/
abbrev VF : Reg := 15

end Sys2Proof
end

