-- ==== Sys2Proof/Syntax.lean ====
section
/-! DEFINITION. The 34 instructions, one constructor per row of spec/opcode_table.json
(spec/30_encoding.md R75). Operand fields carry the widths of R71. -/

namespace Sys2Proof

/-- An instruction with its operand fields (R71, R75). -/
inductive Instr where
  /-- 00E0 `CLS` (R170). -/
  | cls
  /-- 00EE `RET` (R110). -/
  | ret
  /-- 1nnn `JP nnn` (R111). -/
  | jp (nnn : Addr)
  /-- 2nnn `CALL nnn` (R112). -/
  | call (nnn : Addr)
  /-- 3xnn `SE Vx, nn` (R114). -/
  | seNn (x : Reg) (nn : Byte)
  /-- 4xnn `SNE Vx, nn` (R115). -/
  | sneNn (x : Reg) (nn : Byte)
  /-- 5xy0 `SE Vx, Vy` (R116). -/
  | seVy (x y : Reg)
  /-- 6xnn `LD Vx, nn` (R130). -/
  | ldNn (x : Reg) (nn : Byte)
  /-- 7xnn `ADD Vx, nn` (R131). -/
  | addNn (x : Reg) (nn : Byte)
  /-- 8xy0 `LD Vx, Vy` (R132). -/
  | ldVy (x y : Reg)
  /-- 8xy1 `OR Vx, Vy` (R133). -/
  | orVy (x y : Reg)
  /-- 8xy2 `AND Vx, Vy` (R134). -/
  | andVy (x y : Reg)
  /-- 8xy3 `XOR Vx, Vy` (R135). -/
  | xorVy (x y : Reg)
  /-- 8xy4 `ADD Vx, Vy` (R136). -/
  | addVy (x y : Reg)
  /-- 8xy5 `SUB Vx, Vy` (R137). -/
  | subVy (x y : Reg)
  /-- 8xy6 `SHR Vx, Vy` (R138). -/
  | shrVy (x y : Reg)
  /-- 8xy7 `SUBN Vx, Vy` (R139). -/
  | subnVy (x y : Reg)
  /-- 8xyE `SHL Vx, Vy` (R140). -/
  | shlVy (x y : Reg)
  /-- 9xy0 `SNE Vx, Vy` (R117). -/
  | sneVy (x y : Reg)
  /-- Annn `LD I, nnn` (R150). -/
  | ldI (nnn : Addr)
  /-- Bnnn `JP V0, nnn` (R113). -/
  | jpV0 (nnn : Addr)
  /-- Cxnn `RND Vx, nn` (R141). -/
  | rnd (x : Reg) (nn : Byte)
  /-- Dxyn `DRW Vx, Vy, n` (R171). -/
  | drw (x y : Reg) (n : Nibble)
  /-- Ex9E `SKP Vx` (R181). -/
  | skp (x : Reg)
  /-- ExA1 `SKNP Vx` (R182). -/
  | sknp (x : Reg)
  /-- Fx07 `LD Vx, DT` (R187). -/
  | ldVxDt (x : Reg)
  /-- Fx0A `LD Vx, K` (R183). -/
  | ldVxK (x : Reg)
  /-- Fx15 `LD DT, Vx` (R188). -/
  | ldDtVx (x : Reg)
  /-- Fx18 `LD ST, Vx` (R189). -/
  | ldStVx (x : Reg)
  /-- Fx1E `ADD I, Vx` (R151). -/
  | addI (x : Reg)
  /-- Fx29 `LD F, Vx` (R152). -/
  | ldF (x : Reg)
  /-- Fx33 `LD B, Vx` (R153). -/
  | ldB (x : Reg)
  /-- Fx55 `LD [I], Vx` (R154). -/
  | ldMemVx (x : Reg)
  /-- Fx65 `LD Vx, [I]` (R155). -/
  | ldVxMem (x : Reg)
  deriving DecidableEq, Repr

end Sys2Proof
end

