-- ==== Sys2Proof/WellFormed.lean ====
section
/-! DEFINITION. Which instructions and which words are well formed.

An instruction's fields carry their widths in their types, and spec/30_encoding.md R78 checks no operand
field ("any x, y, n, nn, nnn value is legal in a legal pattern"), so every term of `Instr` is well formed.
What can be ill formed is a 16-bit word: `Word.legal` writes out R76's own list, class by class,
independently of the decoder's table. -/

namespace Sys2Proof

/-- R78: operand fields are never checked. -/
def Instr.wellFormed : Instr → Bool
  | .cls | .ret => true
  | .jp _ | .call _ | .ldI _ | .jpV0 _ => true
  | .seNn _ _ | .sneNn _ _ | .ldNn _ _ | .addNn _ _ | .rnd _ _ => true
  | .seVy _ _ | .ldVy _ _ | .orVy _ _ | .andVy _ _ | .xorVy _ _ => true
  | .addVy _ _ | .subVy _ _ | .shrVy _ _ | .subnVy _ _ | .shlVy _ _ | .sneVy _ _ => true
  | .drw _ _ _ => true
  | .skp _ | .sknp _ | .ldVxDt _ | .ldVxK _ | .ldDtVx _ | .ldStVx _ => true
  | .addI _ | .ldF _ | .ldB _ | .ldMemVx _ | .ldVxMem _ => true

/-- The words that R76 does not list as illegal, by class nibble: class 0 has two legal words, classes 5
and 9 need low nibble 0, class 8 excludes seven low nibbles, classes E and F allow the listed low bytes. -/
def Word.legal (w : Word) : Bool :=
  let low4 := w.toNat % 16
  let low8 := w.toNat % 256
  match w.toNat / 4096 with
  | 0x0 => w.toNat == 0x00E0 || w.toNat == 0x00EE
  | 0x5 => low4 == 0
  | 0x8 => !([0x8, 0x9, 0xA, 0xB, 0xC, 0xD, 0xF].contains low4)
  | 0x9 => low4 == 0
  | 0xE => [0x9E, 0xA1].contains low8
  | 0xF => [0x07, 0x0A, 0x15, 0x18, 0x1E, 0x29, 0x33, 0x55, 0x65].contains low8
  | _ => true

end Sys2Proof
end

