-- ==== Sys2Proof/Decode.lean ====
section
/-! DEFINITION. The decoder and the encoder (spec/30_encoding.md R70 to R77). -/

namespace Sys2Proof

/-! ### Fields of a word (R71) -/

/-- `w[15:12]`, the opcode class. -/
def fieldClass (w : Word) : Nibble := w.extractLsb' 12 4

/-- `w[11:8]`, the first register operand. -/
def fieldX (w : Word) : Reg := w.extractLsb' 8 4

/-- `w[7:4]`, the second register operand. -/
def fieldY (w : Word) : Reg := w.extractLsb' 4 4

/-- `w[3:0]`, a 4-bit immediate. -/
def fieldN (w : Word) : Nibble := w.extractLsb' 0 4

/-- `w[7:0]`, an 8-bit immediate. -/
def fieldNn (w : Word) : Byte := w.extractLsb' 0 8

/-- `w[11:0]`, a 12-bit address. -/
def fieldNnn (w : Word) : Addr := w.extractLsb' 0 12

/-! ### The opcode map (R72, R74, R75) -/

/-- R72: the six formats, each with the instruction its operand fields make. -/
inductive Format where
  | fixed (i : Instr)
  | nnn (f : Addr → Instr)
  | xnn (f : Reg → Byte → Instr)
  | xyn (f : Reg → Reg → Nibble → Instr)
  | xy (f : Reg → Reg → Instr)
  | x (f : Reg → Instr)

/-- R72, column "fixed bits (mask)". -/
def Format.mask : Format → Word
  | .fixed _ => 0xFFFF
  | .nnn _ => 0xF000
  | .xnn _ => 0xF000
  | .xyn _ => 0xF000
  | .xy _ => 0xF00F
  | .x _ => 0xF0FF

/-- R72, column "operands", taken from the word at the positions of R71. -/
def Format.instr : Format → Word → Instr
  | .fixed i, _ => i
  | .nnn f, w => f (fieldNnn w)
  | .xnn f, w => f (fieldX w) (fieldNn w)
  | .xyn f, w => f (fieldX w) (fieldY w) (fieldN w)
  | .xy f, w => f (fieldX w) (fieldY w)
  | .x f, w => f (fieldX w)

/-- One row of R75: the `match` word and the format. -/
structure Row where
  pattern : Word
  format : Format

/-- R74: `(w & mask) = match`. -/
def Row.accepts (r : Row) (w : Word) : Bool := w &&& r.format.mask == r.pattern

/-- R75, rows 1 to 4 and 20, 21: fixed words and 12-bit addresses. -/
def rowsAddress : List Row :=
  [⟨0x00E0, .fixed .cls⟩, ⟨0x00EE, .fixed .ret⟩, ⟨0x1000, .nnn .jp⟩, ⟨0x2000, .nnn .call⟩,
   ⟨0xA000, .nnn .ldI⟩, ⟨0xB000, .nnn .jpV0⟩]

/-- R75, rows 5, 6, 8, 9, 22, 23: immediates. -/
def rowsImmediate : List Row :=
  [⟨0x3000, .xnn .seNn⟩, ⟨0x4000, .xnn .sneNn⟩, ⟨0x6000, .xnn .ldNn⟩, ⟨0x7000, .xnn .addNn⟩,
   ⟨0xC000, .xnn .rnd⟩, ⟨0xD000, .xyn .drw⟩]

/-- R75, rows 7 and 10 to 19: two registers. -/
def rowsRegister : List Row :=
  [⟨0x5000, .xy .seVy⟩, ⟨0x8000, .xy .ldVy⟩, ⟨0x8001, .xy .orVy⟩, ⟨0x8002, .xy .andVy⟩,
   ⟨0x8003, .xy .xorVy⟩, ⟨0x8004, .xy .addVy⟩, ⟨0x8005, .xy .subVy⟩, ⟨0x8006, .xy .shrVy⟩,
   ⟨0x8007, .xy .subnVy⟩, ⟨0x800E, .xy .shlVy⟩, ⟨0x9000, .xy .sneVy⟩]

/-- R75, rows 24 to 34: one register and a sub-opcode byte. -/
def rowsSubOpcode : List Row :=
  [⟨0xE09E, .x .skp⟩, ⟨0xE0A1, .x .sknp⟩, ⟨0xF007, .x .ldVxDt⟩, ⟨0xF00A, .x .ldVxK⟩,
   ⟨0xF015, .x .ldDtVx⟩, ⟨0xF018, .x .ldStVx⟩, ⟨0xF01E, .x .addI⟩, ⟨0xF029, .x .ldF⟩,
   ⟨0xF033, .x .ldB⟩, ⟨0xF055, .x .ldMemVx⟩, ⟨0xF065, .x .ldVxMem⟩]

/-- R75: the opcode map. -/
def rows : List Row := rowsAddress ++ rowsImmediate ++ rowsRegister ++ rowsSubOpcode

/-- R74: the row that accepts the word gives the instruction; no row, no instruction (R76). -/
def decodeWord (w : Word) : Option Instr :=
  (rows.find? fun r => r.accepts w).map fun r => r.format.instr w

/-- R54: the byte at the lower address is bits 15:8 of the word. -/
def wordOfBytes (hi lo : Byte) : Word := hi ++ lo

/-- Why a byte sequence is no instruction. -/
inductive DecodeReject where
  /-- The word matches no row (R76): executing it raises DecodeError. -/
  | illegal (w : Word)
  /-- Fewer than two bytes (R70: a decoder always takes 2 bytes). The machine never meets this: a fetch
  reads two bytes. -/
  | truncated
  deriving DecidableEq, Repr

/-- The decoder on bytes in memory order (R54, R70): the instruction and the bytes after it. -/
def decodeBytes : List Byte → Except DecodeReject (Instr × List Byte)
  | hi :: lo :: rest =>
    match decodeWord (wordOfBytes hi lo) with
    | some i => .ok (i, rest)
    | none => .error (.illegal (wordOfBytes hi lo))
  | _ => .error .truncated

/-! ### The encoder -/

/-- A word from its class nibble and a 12-bit address. -/
def wordNnn (c : Nibble) (nnn : Addr) : Word := c ++ nnn

/-- A word from its class nibble, x and an 8-bit part. -/
def wordXnn (c : Nibble) (x : Reg) (nn : Byte) : Word := c ++ x ++ nn

/-- A word from its four nibbles. -/
def wordXyn (c : Nibble) (x y : Reg) (n : Nibble) : Word := c ++ x ++ y ++ n

/-- The word of an instruction (R71, R72, R75). -/
def encodeWord : Instr → Word
  | .cls => 0x00E0
  | .ret => 0x00EE
  | .jp nnn => wordNnn 0x1 nnn
  | .call nnn => wordNnn 0x2 nnn
  | .seNn x nn => wordXnn 0x3 x nn
  | .sneNn x nn => wordXnn 0x4 x nn
  | .seVy x y => wordXyn 0x5 x y 0x0
  | .ldNn x nn => wordXnn 0x6 x nn
  | .addNn x nn => wordXnn 0x7 x nn
  | .ldVy x y => wordXyn 0x8 x y 0x0
  | .orVy x y => wordXyn 0x8 x y 0x1
  | .andVy x y => wordXyn 0x8 x y 0x2
  | .xorVy x y => wordXyn 0x8 x y 0x3
  | .addVy x y => wordXyn 0x8 x y 0x4
  | .subVy x y => wordXyn 0x8 x y 0x5
  | .shrVy x y => wordXyn 0x8 x y 0x6
  | .subnVy x y => wordXyn 0x8 x y 0x7
  | .shlVy x y => wordXyn 0x8 x y 0xE
  | .sneVy x y => wordXyn 0x9 x y 0x0
  | .ldI nnn => wordNnn 0xA nnn
  | .jpV0 nnn => wordNnn 0xB nnn
  | .rnd x nn => wordXnn 0xC x nn
  | .drw x y n => wordXyn 0xD x y n
  | .skp x => wordXnn 0xE x 0x9E
  | .sknp x => wordXnn 0xE x 0xA1
  | .ldVxDt x => wordXnn 0xF x 0x07
  | .ldVxK x => wordXnn 0xF x 0x0A
  | .ldDtVx x => wordXnn 0xF x 0x15
  | .ldStVx x => wordXnn 0xF x 0x18
  | .addI x => wordXnn 0xF x 0x1E
  | .ldF x => wordXnn 0xF x 0x29
  | .ldB x => wordXnn 0xF x 0x33
  | .ldMemVx x => wordXnn 0xF x 0x55
  | .ldVxMem x => wordXnn 0xF x 0x65

/-- `w[15:8]`, the byte at the lower address (R54). -/
def highByte (w : Word) : Byte := w.extractLsb' 8 8

/-- `w[7:0]`, the byte at the higher address (R54). -/
def lowByte (w : Word) : Byte := w.extractLsb' 0 8

/-- The two bytes of a word in memory order (R54, R80). -/
def bytesOfWord (w : Word) : List Byte := [highByte w, lowByte w]

/-- The bytes of an instruction in memory order. -/
def encode (i : Instr) : List Byte := bytesOfWord (encodeWord i)

/-- The word of a table row: its `nbits` bits, zero above them (every row has 16). -/
def tableWord (nbits w : Nat) : Word := BitVec.ofNat 16 (w % 2 ^ nbits)

/-- What the decoder reads from an instruction whose bits are `w`, numbered as spec/opcode_table.json numbers
them. -/
def decodeTableWord (nbits w : Nat) : Option Instr :=
  match decodeBytes (bytesOfWord (tableWord nbits w)) with
  | .ok (i, _) => some i
  | .error _ => none

end Sys2Proof
end

