-- ==== Sys2Proof/Config.lean ====
section
/-! DEFINITION. The parameters of the block (spec/00_scope.md R5, spec/20_memory.md R51) and the free values:
the inputs of a step for which no host request is pending. -/

namespace Sys2Proof

/-- The parameters a model takes as arguments (R5, R51): data no command changes (log 7). Their defaults are
`Sys2Proof.Machine.defaultConfig`. -/
structure Config where
  /-- STACK_CAP, 12 to 16: return-address stack slots (R5, R26). -/
  stackCap : Nat
  /-- HIST_CAP, at least 1: snapshot history slots (R5, R32). -/
  histCap : Nat
  /-- FONT: the 80 bytes at 0x000 after reset (R51). -/
  font : Vector Byte 80
  deriving DecidableEq, Repr

/-- The ranges of R5. -/
def Config.wf (c : Config) : Bool :=
  decide (12 ≤ c.stackCap) && decide (c.stackCap ≤ 16) && decide (1 ≤ c.histCap)

/-- DESIGN CHOICE, safe (log 2). Free value: the `keys` input of the n-th step for which State holds no
request. R98: any value is a legal host behaviour. -/
opaque Config.freeKeys : Nat → BitVec 16

/-- DESIGN CHOICE, safe (log 2). Free value: the `rnd` input of the n-th step for which State holds no
request. R98, R141: a draw under no law. -/
opaque Config.freeRnd : Nat → Byte

end Sys2Proof
end

