-- ==== Sys2Proof/Machine/Memory.lean ====
section
/-! DEFINITION. The flat memory (spec/20_memory.md R50 to R53): a list of the cells that differ from the reset
contents, sorted by address, and the reset contents themselves (R35, R51). -/

namespace Sys2Proof.Machine

/-- MEM (R50): the cells that differ from the reset contents, by rising address. -/
abbrev Memory := List Host.Cell

/-- R51: the font table, glyph g at g × 5. The bytes are the spec's own (its D11, G2); log 8. -/
def defaultFont : Vector Byte 80 :=
  #v[0xF0, 0x90, 0x90, 0x90, 0xF0, 0x20, 0x60, 0x20, 0x20, 0x70,
     0xF0, 0x10, 0xF0, 0x80, 0xF0, 0xF0, 0x10, 0xF0, 0x10, 0xF0,
     0x90, 0x90, 0xF0, 0x10, 0x10, 0xF0, 0x80, 0xF0, 0x10, 0xF0,
     0xF0, 0x80, 0xF0, 0x90, 0xF0, 0xF0, 0x10, 0x20, 0x40, 0x40,
     0xF0, 0x90, 0xF0, 0x90, 0xF0, 0xF0, 0x90, 0xF0, 0x10, 0xF0,
     0xF0, 0x90, 0xF0, 0x90, 0x90, 0xE0, 0x90, 0xE0, 0x90, 0xE0,
     0xF0, 0x80, 0x80, 0x80, 0xF0, 0xE0, 0x90, 0x90, 0x90, 0xE0,
     0xF0, 0x80, 0xF0, 0x80, 0xF0, 0xF0, 0x80, 0xF0, 0x80, 0x80]

/-- R5: the defaults of STACK_CAP and HIST_CAP, and the font of R51. -/
def defaultConfig : Config := { stackCap := 16, histCap := 2500, font := defaultFont }

/-- What an unlisted address reads as: the reset contents (R35), the font at 0x000 to 0x04F and 0x00
elsewhere. -/
def resetByte (c : Config) (a : Nat) : Byte := if h : a < 80 then c.font[a] else 0

/-- `MEM[a]`. -/
def Memory.read (c : Config) : Memory → Nat → Byte
  | [], a => resetByte c a
  | (b, v) :: m, a => if b = a then v else Memory.read c m a

/-- Put a cell in its place by address. -/
def Memory.insert : Memory → Host.Cell → Memory
  | [], p => [p]
  | q :: m, p => if p.1 < q.1 then p :: q :: m else q :: Memory.insert m p

/-- The cells of every other address. -/
def Memory.without (m : Memory) (a : Nat) : Memory := m.filter fun q => q.1 != a

/-- `MEM[a] <- v`. A cell that takes its reset value leaves the list, so equal memories are equal lists. -/
def Memory.write (c : Config) (m : Memory) (a : Nat) (v : Byte) : Memory :=
  if v = resetByte c a then m.without a else (m.without a).insert (a, v)

/-- The canonical form: addresses strictly rising, all below 4096, no cell equal to its reset value. -/
def Memory.wf (c : Config) : Memory → Bool
  | [] => true
  | (a, v) :: m =>
    decide (a < 4096) && v != resetByte c a && m.all (fun q => decide (a < q.1)) && Memory.wf c m

end Sys2Proof.Machine
end

