-- ==== Sys2Proof/Machine/State.lean ====
section
/-! DEFINITION. The state of the block (spec/10_state.md R20 to R37), its reset value (R35), and the plain data
the host exchanges with it (spec/00_scope.md R8). -/

namespace Sys2Proof.Machine

/-- FB (R28): 32 rows of 64 one-bit cells, `fb[row][col]`. -/
abbrev Framebuffer := Vector (Vector Bool 64) 32

/-- A snapshot value (R33): the ten elements that `rewind` restores. -/
structure Snapshot where
  /-- MEM (R50). -/
  mem : Memory
  /-- V0 to VF (R21). -/
  v : Vector Byte 16
  /-- I (R24). -/
  i : Word
  /-- PC (R25). -/
  pc : Addr
  /-- STACK: STACK_CAP slots (R26). -/
  stack : List Addr
  /-- SP, the next free slot (R26, R27). -/
  sp : BitVec 5
  /-- FB (R28). -/
  fb : Framebuffer
  /-- DT (R29). -/
  dt : Byte
  /-- ST (R29). -/
  st : Byte
  /-- KW: none is Running, `some x` is AwaitingKey(x) (R30). -/
  kw : Option Reg
  deriving DecidableEq, Repr

/-- The four error conditions (R200). -/
inductive ErrorCode where
  | decodeError
  | stackOverflow
  | stackUnderflow
  | invalidProgramLoad
  deriving DecidableEq, Repr

/-- HALT when it is set: the code with the info recorded for it (R37, R200). -/
inductive Halt where
  /-- Code 1: the word that matches no row and the address it was fetched from (R201). -/
  | decodeError (word : Word) (addr : Addr)
  /-- Code 2: the 2nnn word and its address (R202). -/
  | stackOverflow (word : Word) (addr : Addr)
  /-- Code 3: the 00EE word and its address (R203). -/
  | stackUnderflow (word : Word) (addr : Addr)
  /-- Code 4: the length of the rejected ROM (R204, R252). -/
  | invalidProgramLoad (length : Nat)
  deriving DecidableEq, Repr

/-- The inputs of one step (R98). -/
structure Input where
  /-- `keys[k]` = 1 exactly when key k is reported pressed (R180). -/
  keys : BitVec 16
  /-- The random byte of the step (R141). -/
  rnd : Byte
  deriving DecidableEq, Repr

/-- A host command with its inputs (R8). -/
inductive Command where
  /-- R250. -/
  | reset
  /-- R251. -/
  | load (bytes : List Byte)
  /-- R90. -/
  | step (input : Input)
  /-- R210: `tick(n, inputs)`, n being the number of inputs. -/
  | tick (inputs : List Input)
  /-- R219. -/
  | rewind
  /-- R221. -/
  | getSnapshot
  /-- R221. -/
  | restoreSnapshot (snap : Snapshot)
  deriving DecidableEq, Repr

/-- An output event (R8). -/
inductive Event where
  /-- R223. -/
  | stateChanged
  /-- R213: the 2048 cells of FB, row by row. -/
  | frame (cells : List Bool)
  /-- R212: ST after the decrement, in 1/60 s. -/
  | audioCue (st : Byte)
  /-- R205, R252. -/
  | fatal (halt : Halt)
  /-- R186. -/
  | keyConsume (key : Nibble)
  /-- R219. -/
  | rewindEmpty
  deriving DecidableEq, Repr

/-- What a command returns (R8, R90). -/
inductive Result where
  /-- An instruction completed, or a pending key was delivered (R90). -/
  | retired
  /-- AwaitingKey and no key pressed (R90). -/
  | noOpAwaitingKey
  /-- This step raised a fatal error (R90). -/
  | fatal (code : ErrorCode)
  /-- The block was already halted (R90, R91). -/
  | halted (code : ErrorCode)
  /-- `load` or `rewind` succeeded (R8). -/
  | ok
  /-- `load` was rejected (R252). -/
  | invalidProgramLoad
  /-- `rewind` met an empty history (R219). -/
  | empty
  /-- The value of `get_snapshot` (R221). -/
  | snapshot (snap : Snapshot)
  deriving DecidableEq, Repr

/-- The state of the block: the ten snapshot elements, HALT and HIST (R20); the configuration (log 7); and the
model's own ports to the host (logs 1 to 4). -/
structure State extends Snapshot where
  /-- HALT: none is code 0, clear (R31). -/
  halt : Option Halt
  /-- HIST, oldest first (R32). -/
  hist : List Snapshot
  /-- The parameters of R5 and R51. No command changes them. -/
  cfg : Config
  /-- The key input of the step in progress (R98, R180). -/
  keys : BitVec 16
  /-- The random input of the step in progress (R98). -/
  rnd : Byte
  /-- How many free inputs have been drawn (log 2). -/
  draws : Nat
  /-- The commands the host issues next; when there is none it issues `step` (log 1). -/
  host : List Command
  /-- The events of the last command, in order (log 4). -/
  events : List Event
  /-- The result of the last command (log 4). -/
  result : Option Result
  deriving DecidableEq, Repr

/-- The machine has NO fault of its own, so this type has no constructor: every fatal error of R200 has an
entry the spec describes (R205, R252), which is a next state with HALT set, and R225 gives every other case
a result (log 5). Safe: a claim that no step faults is true because R52 and R225 leave nothing to fault on. -/
inductive Fault
  deriving DecidableEq, Repr

/-- Why a step has no next state. -/
inductive Refusal where
  /-- Raised by an arm of `exec` whose instruction has no meaning yet; no arm is left. Safe. -/
  | notModelled (mnemonic : String)
  /-- Raised by the command `restore_snapshot` on an ill-formed value, which R221 puts outside the model
  ("refused"); log 6. Safe. -/
  | illFormedSnapshot
  deriving DecidableEq, Repr

/-- R35, R250: the ten snapshot elements after reset. Memory lists nothing, so it reads as the font and
zeros. -/
def Snapshot.reset (c : Config) : Snapshot where
  mem := []
  v := Vector.replicate 16 0
  i := 0
  pc := 0x200
  stack := List.replicate c.stackCap 0
  sp := 0
  fb := Vector.replicate 32 (Vector.replicate 64 false)
  dt := 0
  st := 0
  kw := none

/-- The block right after reset or power-on (R35, R250), with the default parameters and, for the model's own
fields, nothing pending and nothing emitted (logs 1 to 4, 7). -/
def State.reset : State where
  toSnapshot := Snapshot.reset defaultConfig
  halt := none
  hist := []
  cfg := defaultConfig
  keys := 0
  rnd := 0
  draws := 0
  host := []
  events := []
  result := none

end Sys2Proof.Machine
end

