-- ==== Sys2Proof/Machine/Ops.lean ====
section
/-! DEFINITION. The named operations over registers, memory, stack, display, timers and history, taking a fatal
error (spec/60_exceptions.md R205), and snapshot and restore (spec/10_state.md R33). -/

namespace Sys2Proof.Machine

/-! ### Registers (R7, R21 to R25) -/

/-- `V[r]`. -/
def State.getV (s : State) (r : Reg) : Byte := s.v[r.toNat]'r.isLt

/-- `V[r] <- b`. -/
def State.setV (s : State) (r : Reg) (b : Byte) : State :=
  { s with v := s.v.set r.toNat b r.isLt }

/-- `I <- w`. -/
def State.setI (s : State) (w : Word) : State := { s with i := w }

/-- `PC <- a`. -/
def State.setPc (s : State) (a : Addr) : State := { s with pc := a }

/-- R94: `PC <- (PC + 2) mod 4096`; the skips do it once more (R118). -/
def State.advance (s : State) : State := s.setPc (s.pc + 2)

/-- The address of the instruction in progress: the advanced PC less 2 (R205). -/
def State.instrAddr (s : State) : Addr := s.pc - 2

/-! ### Memory (R52) -/

/-- `MemRead(a, 1)`. -/
def State.readByte (s : State) (a : Addr) : Byte := s.mem.read s.cfg a.toNat

/-- `MemWrite(a, 1, b)`. -/
def State.writeByte (s : State) (a : Addr) (b : Byte) : State :=
  { s with mem := s.mem.write s.cfg a.toNat b }

/-- `MemRead(a, 2)`: big-endian, the second address mod 4096 (R52, R54). -/
def State.readWord (s : State) (a : Addr) : Word := wordOfBytes (s.readByte a) (s.readByte (a + 1))

/-- R93: the word at PC. -/
def State.fetch (s : State) : Word := s.readWord s.pc

/-- A word stored at `a`, high byte at the lower address (R54, R55). -/
def State.writeWord (s : State) (a : Addr) (w : Word) : State :=
  (s.writeByte a (highByte w)).writeByte (a + 1) (lowByte w)

/-! ### Stack (R26) -/

/-- `STACK[k]`. Outside the slots, which no run reaches, it reads 0 (log 29). -/
def State.stackAt (s : State) (k : BitVec 5) : Addr := s.stack.getD k.toNat 0

/-- `STACK[SP] <- a ; SP <- SP + 1` (R112). -/
def State.pushStack (s : State) (a : Addr) : State :=
  { s with stack := s.stack.set s.sp.toNat a, sp := s.sp + 1 }

/-- `SP <- SP - 1 ; PC <- STACK[SP]` (R110). The slot keeps its value. -/
def State.popStack (s : State) : State :=
  { s with sp := s.sp - 1, pc := s.stackAt (s.sp - 1) }

/-! ### Display, timers, key-wait register (R28 to R30) -/

/-- `FB[row][col]`. -/
def Framebuffer.cell (fb : Framebuffer) (row : Fin 32) (col : Fin 64) : Bool := fb[row][col]

/-- `FB[row][col] <- FB[row][col] xor 1`. -/
def Framebuffer.toggle (fb : Framebuffer) (row : Fin 32) (col : Fin 64) : Framebuffer :=
  fb.set row (fb[row].set col (!fb.cell row col))

/-- The blank display (R170). -/
def Framebuffer.blank : Framebuffer := Vector.replicate 32 (Vector.replicate 64 false)

/-- R213: the 2048 cells, row-major, row 0 first, column 0 first within a row. -/
def Framebuffer.cells (fb : Framebuffer) : List Bool := fb.toList.flatMap fun row => row.toList

/-- `FB[row][col]` of the state. -/
def State.cell (s : State) (row : Fin 32) (col : Fin 64) : Bool := Framebuffer.cell s.fb row col

/-- The display replaced. -/
def State.setFb (s : State) (fb : Framebuffer) : State := { s with fb := fb }

/-- `DT <- b`. -/
def State.setDt (s : State) (b : Byte) : State := { s with dt := b }

/-- `ST <- b`. -/
def State.setSt (s : State) (b : Byte) : State := { s with st := b }

/-- `KW <- k`. -/
def State.setKw (s : State) (k : Option Reg) : State := { s with kw := k }

/-! ### Events and results (R8) -/

/-- `emit e`. -/
def State.emit (s : State) (e : Event) : State := { s with events := s.events ++ [e] }

/-- The result of the command. -/
def State.answer (s : State) (r : Result) : State := { s with result := some r }

/-- A command starts with no event emitted and nothing answered (log 4). -/
def State.beginCommand (s : State) : State := { s with events := [], result := none }

/-- R98: the inputs of a step are sampled once, at its start. -/
def State.sample (s : State) (input : Input) : State := { s with keys := input.keys, rnd := input.rnd }

/-! ### Fatal errors (R200, R205) -/

/-- The error code recorded in HALT. -/
def Halt.code : Halt → ErrorCode
  | .decodeError _ _ => .decodeError
  | .stackOverflow _ _ => .stackOverflow
  | .stackUnderflow _ _ => .stackUnderflow
  | .invalidProgramLoad _ => .invalidProgramLoad

/-- The numeric code (R200). -/
def ErrorCode.number : ErrorCode → Nat
  | .decodeError => 1
  | .stackOverflow => 2
  | .stackUnderflow => 3
  | .invalidProgramLoad => 4

/-- `HALT.code` as a number, 0 when clear (R31). -/
def State.haltCode (s : State) : Nat :=
  match s.halt with
  | none => 0
  | some h => h.code.number

/-- `raise E(info)` (R205): HALT records the code and the info and `fatal` is emitted; nothing else changes. -/
def State.raise (s : State) (h : Halt) : State := { s with halt := some h }.emit (.fatal h)

/-- R206: HALT is cleared by nothing but `reset` and a successful `load`. -/
def State.clearHalt (s : State) : State := { s with halt := none }

/-! ### Snapshots and history (R32, R33) -/

/-- A snapshot fit to be restored (R221): canonical memory, STACK_CAP stack slots, SP at most STACK_CAP. The
other shapes hold by type. -/
def Snapshot.wf (c : Config) (p : Snapshot) : Bool :=
  p.mem.wf c && p.stack.length == c.stackCap && decide (p.sp.toNat ≤ c.stackCap)

/-- `snapshot()` (R33). -/
def State.snapshot (s : State) : Snapshot := s.toSnapshot

/-- `restore(p)` (R33): all ten elements at once; HALT and HIST untouched. -/
def State.restore (s : State) (p : Snapshot) : State := { s with toSnapshot := p }

/-- `push(p)` on a history (R32): append, and drop the oldest entry when it is over capacity. -/
def pushHistory (cap : Nat) (h : List Snapshot) (p : Snapshot) : List Snapshot :=
  if cap < (h ++ [p]).length then (h ++ [p]).drop 1 else h ++ [p]

/-- `push(p)` (R32, R97). -/
def State.pushHist (s : State) (p : Snapshot) : State :=
  { s with hist := pushHistory s.cfg.histCap s.hist p }

/-- `pop()` (R32) of a history whose newest entry has been taken. -/
def State.dropNewest (s : State) : State := { s with hist := s.hist.dropLast }

/-- HIST emptied (R250). -/
def State.clearHist (s : State) : State := { s with hist := [] }

end Sys2Proof.Machine
end

