-- ==== Sys2Proof/Machine/Flags.lean ====
section
/-! DEFINITION. Results and flags of the flag-setting instructions (spec/42_register_alu.md R142), computed on
unreduced naturals, and the order in which they are written (spec/10_state.md R23). -/

namespace Sys2Proof.Machine

/-- A flag is 0 or 1 (R22). -/
def flagByte (b : Bool) : Byte := if b then 1 else 0

/-- R142: the sum mod 256. -/
def sumByte (a b : Byte) : Byte := BitVec.ofNat 8 (a.toNat + b.toNat)

/-- R142: carry is "raw sum>255". -/
def carry (a b : Byte) : Bool := decide (a.toNat + b.toNat > 255)

/-- R142: the integer difference mod 256. -/
def differenceByte (a b : Byte) : Byte := BitVec.ofInt 8 ((a.toNat : Int) - (b.toNat : Int))

/-- R142: no borrow, the minuend is at least the subtrahend. -/
def noBorrow (a b : Byte) : Bool := decide (a.toNat ≥ b.toNat)

/-- R138: one position right, bit 7 becomes 0. -/
def shiftRightByte (b : Byte) : Byte := BitVec.ofNat 8 (b.toNat / 2)

/-- R140: one position left mod 256, bit 0 becomes 0. -/
def shiftLeftByte (b : Byte) : Byte := BitVec.ofNat 8 (b.toNat * 2)

/-- R23: the result to `V[x]`, then the flag to `V[15]`, so the flag stays when x = 15. -/
def State.setWithFlag (s : State) (x : Reg) (result : Byte) (flag : Bool) : State :=
  (s.setV x result).setV VF (flagByte flag)

end Sys2Proof.Machine
end

