-- ==== Sys2Proof/Machine/Alu.lean ====
section
/-! DEFINITION. Register load, arithmetic, logic, shift and random instructions
(spec/42_register_alu.md R130 to R142). -/

namespace Sys2Proof.Machine

/-- R130: 6xnn. -/
def execLdNn (x : Reg) (nn : Byte) (s : State) : Host.Outcome State Fault Refusal :=
  .next (s.setV x nn)

/-- R131: 7xnn. No flag. -/
def execAddNn (x : Reg) (nn : Byte) (s : State) : Host.Outcome State Fault Refusal :=
  .next (s.setV x (sumByte (s.getV x) nn))

/-- R132: 8xy0. -/
def execLdVy (x y : Reg) (s : State) : Host.Outcome State Fault Refusal :=
  .next (s.setV x (s.getV y))

/-- R133: 8xy1. VF is not reset. -/
def execOrVy (x y : Reg) (s : State) : Host.Outcome State Fault Refusal :=
  .next (s.setV x (s.getV x ||| s.getV y))

/-- R134: 8xy2. VF is not reset. -/
def execAndVy (x y : Reg) (s : State) : Host.Outcome State Fault Refusal :=
  .next (s.setV x (s.getV x &&& s.getV y))

/-- R135: 8xy3. VF is not reset. -/
def execXorVy (x y : Reg) (s : State) : Host.Outcome State Fault Refusal :=
  .next (s.setV x (s.getV x ^^^ s.getV y))

/-- R136: 8xy4. -/
def execAddVy (x y : Reg) (s : State) : Host.Outcome State Fault Refusal :=
  .next (s.setWithFlag x (sumByte (s.getV x) (s.getV y)) (carry (s.getV x) (s.getV y)))

/-- R137: 8xy5. -/
def execSubVy (x y : Reg) (s : State) : Host.Outcome State Fault Refusal :=
  .next (s.setWithFlag x (differenceByte (s.getV x) (s.getV y)) (noBorrow (s.getV x) (s.getV y)))

/-- R138: 8xy6. The source is `V[y]`. -/
def execShrVy (x y : Reg) (s : State) : Host.Outcome State Fault Refusal :=
  .next (s.setWithFlag x (shiftRightByte (s.getV y)) ((s.getV y).getLsbD 0))

/-- R139: 8xy7. -/
def execSubnVy (x y : Reg) (s : State) : Host.Outcome State Fault Refusal :=
  .next (s.setWithFlag x (differenceByte (s.getV y) (s.getV x)) (noBorrow (s.getV y) (s.getV x)))

/-- R140: 8xyE. The source is `V[y]`. -/
def execShlVy (x y : Reg) (s : State) : Host.Outcome State Fault Refusal :=
  .next (s.setWithFlag x (shiftLeftByte (s.getV y)) ((s.getV y).getLsbD 7))

/-- R141: Cxnn. -/
def execRnd (x : Reg) (nn : Byte) (s : State) : Host.Outcome State Fault Refusal :=
  .next (s.setV x (s.rnd &&& nn))

end Sys2Proof.Machine
end

