-- ==== Sys2Proof/Machine/Operands.lean ====
section
/-! DEFINITION. Every operand form of the instructions: the one addressing mode (spec/20_memory.md R53), glyph
addresses (R152), decimal digits (R153), key numbers (R181, R185) and sprite cells (R172, R173). -/

namespace Sys2Proof.Machine

/-- R53: byte k of an operand addressed by I is at `(I + k) mod 4096`. -/
def State.ea (s : State) (k : Nat) : Addr := BitVec.ofNat 12 (s.i.toNat + k)

/-- R154, R155: I moved past x + 1 bytes, mod 65536. -/
def State.iPast (s : State) (x : Reg) : Word := BitVec.ofNat 16 (s.i.toNat + x.toNat + 1)

/-- R152: `(b mod 16) × 5`. -/
def glyphAddr (b : Byte) : Word := BitVec.ofNat 16 (b.toNat % 16 * 5)

/-- R153: `v div 100`. -/
def hundreds (b : Byte) : Byte := BitVec.ofNat 8 (b.toNat / 100)

/-- R153: `(v div 10) mod 10`. -/
def tens (b : Byte) : Byte := BitVec.ofNat 8 (b.toNat / 10 % 10)

/-- R153: `v mod 10`. -/
def ones (b : Byte) : Byte := BitVec.ofNat 8 (b.toNat % 10)

/-- R181: `keys[V[x] mod 16]`. -/
def State.keyPressed (s : State) (x : Reg) : Bool := s.keys.getLsbD ((s.getV x).toNat % 16)

/-- R185: the least k with `keys[k]` = 1. Asked only when `keys ≠ 0`. -/
def lowestKey (keys : BitVec 16) : Nibble :=
  BitVec.ofNat 4 (((List.range 16).find? fun k => keys.getLsbD k).getD 0)

/-- R172: row `(y0 + r) mod 32`. -/
def spriteRow (y0 : Byte) (r : Nat) : Fin 32 := Fin.ofNat 32 (y0.toNat + r)

/-- R172: column `(x0 + c) mod 64`. -/
def spriteCol (x0 : Byte) (c : Nat) : Fin 64 := Fin.ofNat 64 (x0.toNat + c)

/-- R173: bit 7 of a sprite byte is column 0. -/
def spriteBit (b : Byte) (c : Nat) : Bool := b.getLsbD (7 - c)

/-- R154: `V[0]` to `V[x]` stored from I on, ascending. -/
def State.storeBlock (s : State) (x : Reg) : State :=
  (List.range (x.toNat + 1)).foldl (fun t k => t.writeByte (s.ea k) (s.getV (BitVec.ofNat 4 k))) s

/-- R155: `V[0]` to `V[x]` loaded from I on, ascending. -/
def State.loadBlock (s : State) (x : Reg) : State :=
  (List.range (x.toNat + 1)).foldl (fun t k => t.setV (BitVec.ofNat 4 k) (s.readByte (s.ea k))) s

/-- R184, R186: key `lowest(keys)` goes to `V[x]` and is consumed. -/
def State.deliverKey (s : State) (x : Reg) : State :=
  (s.setV x ((lowestKey s.keys).setWidth 8)).emit (.keyConsume (lowestKey s.keys))

end Sys2Proof.Machine
end

