-- ==== Sys2Proof/Machine/Control.lean ====
section
/-! DEFINITION. Control-transfer instructions (spec/41_control_flow.md R110 to R119). PC is the advanced PC of R94. -/

namespace Sys2Proof.Machine

/-- R118: a skip moves PC 2 further when its condition holds. -/
def State.skipIf (s : State) (cond : Bool) : State := s.setPc (if cond then s.pc + 2 else s.pc)

/-- R110, R203: 00EE. -/
def execRet (s : State) : Host.Outcome State Fault Refusal :=
  .next (if s.sp = 0 then s.raise (.stackUnderflow (encodeWord .ret) s.instrAddr) else s.popStack)

/-- R111: 1nnn. -/
def execJp (nnn : Addr) (s : State) : Host.Outcome State Fault Refusal :=
  .next (s.setPc nnn)

/-- R112, R202: 2nnn. -/
def execCall (nnn : Addr) (s : State) : Host.Outcome State Fault Refusal :=
  .next (if s.sp.toNat = s.cfg.stackCap then
      s.raise (.stackOverflow (encodeWord (.call nnn)) s.instrAddr)
    else (s.pushStack s.pc).setPc nnn)

/-- R113: Bnnn. The sum is taken mod 4096. -/
def execJpV0 (nnn : Addr) (s : State) : Host.Outcome State Fault Refusal :=
  .next (s.setPc (BitVec.ofNat 12 (nnn.toNat + (s.getV V0).toNat)))

/-- R114: 3xnn. -/
def execSeNn (x : Reg) (nn : Byte) (s : State) : Host.Outcome State Fault Refusal :=
  .next (s.skipIf (s.getV x == nn))

/-- R115: 4xnn. -/
def execSneNn (x : Reg) (nn : Byte) (s : State) : Host.Outcome State Fault Refusal :=
  .next (s.skipIf (s.getV x != nn))

/-- R116: 5xy0. -/
def execSeVy (x y : Reg) (s : State) : Host.Outcome State Fault Refusal :=
  .next (s.skipIf (s.getV x == s.getV y))

/-- R117: 9xy0. -/
def execSneVy (x y : Reg) (s : State) : Host.Outcome State Fault Refusal :=
  .next (s.skipIf (s.getV x != s.getV y))

end Sys2Proof.Machine
end

