-- ==== Sys2Proof/Machine/Display.lean ====
section
/-! DEFINITION. Display instructions (spec/44_display.md R170 to R175). -/

namespace Sys2Proof.Machine

/-- R171, inner loop: a set bit toggles its cell, and the collision flag is set when the cell was lit. -/
def blitBit (x0 y0 b : Byte) (r : Nat) (acc : Framebuffer × Bool) (c : Nat) : Framebuffer × Bool :=
  if spriteBit b c then
    (acc.1.toggle (spriteRow y0 r) (spriteCol x0 c),
      acc.2 || acc.1.cell (spriteRow y0 r) (spriteCol x0 c))
  else acc

/-- R171: one sprite row, columns 0 to 7. -/
def blitRow (x0 y0 b : Byte) (r : Nat) (acc : Framebuffer × Bool) : Framebuffer × Bool :=
  (List.range 8).foldl (blitBit x0 y0 b r) acc

/-- R171: the sprite rows 0 to n - 1, row r being the byte at `(I + r) mod 4096`. Gives the display and the
collision flag (R174). -/
def State.blit (s : State) (x0 y0 : Byte) (n : Nat) : Framebuffer × Bool :=
  (List.range n).foldl (fun acc r => blitRow x0 y0 (s.readByte (s.ea r)) r acc) (s.fb, false)

/-- R170: 00E0. -/
def execCls (s : State) : Host.Outcome State Fault Refusal :=
  .next (s.setFb Framebuffer.blank)

/-- R171: Dxyn. VF is always written, after everything else. -/
def execDrw (x y : Reg) (n : Nibble) (s : State) : Host.Outcome State Fault Refusal :=
  .next ((s.setFb (s.blit (s.getV x) (s.getV y) n.toNat).1).setV VF
    (flagByte (s.blit (s.getV x) (s.getV y) n.toNat).2))

end Sys2Proof.Machine
end

