-- ==== Sys2Proof/Machine/Index.lean ====
section
/-! DEFINITION. Address-register and memory instructions (spec/43_index_memory.md R150 to R156). -/

namespace Sys2Proof.Machine

/-- R150: Annn. -/
def execLdI (nnn : Addr) (s : State) : Host.Outcome State Fault Refusal :=
  .next (s.setI (nnn.setWidth 16))

/-- R151: Fx1E. The sum is taken mod 65536; no flag. -/
def execAddI (x : Reg) (s : State) : Host.Outcome State Fault Refusal :=
  .next (s.setI (BitVec.ofNat 16 (s.i.toNat + (s.getV x).toNat)))

/-- R152: Fx29. -/
def execLdF (x : Reg) (s : State) : Host.Outcome State Fault Refusal :=
  .next (s.setI (glyphAddr (s.getV x)))

/-- R153: Fx33. Hundreds at I, tens at I + 1, ones at I + 2; I is not changed. -/
def execLdB (x : Reg) (s : State) : Host.Outcome State Fault Refusal :=
  .next (((s.writeByte (s.ea 0) (hundreds (s.getV x))).writeByte (s.ea 1) (tens (s.getV x))).writeByte
    (s.ea 2) (ones (s.getV x)))

/-- R154: Fx55. -/
def execLdMemVx (x : Reg) (s : State) : Host.Outcome State Fault Refusal :=
  .next ((s.storeBlock x).setI (s.iPast x))

/-- R155: Fx65. -/
def execLdVxMem (x : Reg) (s : State) : Host.Outcome State Fault Refusal :=
  .next ((s.loadBlock x).setI (s.iPast x))

end Sys2Proof.Machine
end

