-- ==== Sys2Proof/Machine/Keypad.lean ====
section
/-! DEFINITION. Keypad and timer instructions and the key-wait state machine
(spec/45_keypad_timer_io.md R180 to R190). -/

namespace Sys2Proof.Machine

/-- R181: Ex9E. -/
def execSkp (x : Reg) (s : State) : Host.Outcome State Fault Refusal :=
  .next (s.skipIf (s.keyPressed x))

/-- R182: ExA1. -/
def execSknp (x : Reg) (s : State) : Host.Outcome State Fault Refusal :=
  .next (s.skipIf (!s.keyPressed x))

/-- R187: Fx07. -/
def execLdVxDt (x : Reg) (s : State) : Host.Outcome State Fault Refusal :=
  .next (s.setV x s.dt)

/-- R183: Fx0A. With no key pressed it enters AwaitingKey(x); else it delivers the lowest key at once. -/
def execLdVxK (x : Reg) (s : State) : Host.Outcome State Fault Refusal :=
  .next (if s.keys = 0 then s.setKw (some x) else s.deliverKey x)

/-- R188: Fx15. -/
def execLdDtVx (x : Reg) (s : State) : Host.Outcome State Fault Refusal :=
  .next (s.setDt (s.getV x))

/-- R189: Fx18. -/
def execLdStVx (x : Reg) (s : State) : Host.Outcome State Fault Refusal :=
  .next (s.setSt (s.getV x))

end Sys2Proof.Machine
end

