-- ==== Sys2Proof/Machine/Commands.lean ====
section
/-! DEFINITION. The seven host commands (spec/00_scope.md R8): the step cycle (spec/40_dispatch_cycle.md R90), the
frame tick, rewind and the snapshot commands (spec/60_exceptions.md R210 to R222), reset and load
(spec/70_reset_and_hazards.md R250 to R252). Each answers the state after the whole command. -/

namespace Sys2Proof.Machine

/-! ### `step` (R90 to R99) -/

/-- The end of a step that has executed or failed to decode: Fatal when HALT was set by it, else push the
pre-step snapshot and retire (R96, R97). -/
def State.finishStep (s : State) (pre : Snapshot) : State :=
  match s.halt with
  | some h => s.answer (.fatal h.code)
  | none => ((s.pushHist pre).emit .stateChanged).answer .retired

/-- R93 to R97 in Running mode: fetch, advance, decode, execute, retire. -/
def State.runInstr (s : State) : Host.Outcome State Fault Refusal :=
  match decodeWord s.fetch with
  | none => .next ((s.advance.raise (.decodeError s.fetch s.pc)).finishStep s.snapshot)
  | some i =>
    match exec i s.advance with
    | .next t => .next (t.finishStep s.snapshot)
    | .fault r => .fault r
    | .refused r => .refused r

/-- R92 in AwaitingKey(x): one poll; no fetch, no PC change. -/
def State.pollKey (s : State) (x : Reg) : State :=
  if s.keys = 0 then (s.pushHist s.snapshot).answer .noOpAwaitingKey
  else ((((s.deliverKey x).setKw none).pushHist s.snapshot).emit .stateChanged).answer .retired

/-- R90: the whole of `step(keys, rnd)`. -/
def State.stepWith (s : State) (input : Input) : Host.Outcome State Fault Refusal :=
  match s.halt with
  | some h => .next (s.answer (.halted h.code))
  | none =>
    match s.kw with
    | some x => .next ((s.sample input).pollKey x)
    | none => (s.sample input).runInstr

/-! ### `tick` (R210 to R215) -/

/-- R211: a timer goes down by 1 and stays at 0. -/
def decremented (b : Byte) : Byte := if b = 0 then 0 else b - 1

/-- R211: both timers. -/
def State.countDown (s : State) : State := (s.setDt (decremented s.dt)).setSt (decremented s.st)

/-- R212: the cue when ST, already decremented, is above 0. -/
def State.cue (s : State) : State := if s.st = 0 then s else s.emit (.audioCue s.st)

/-- R211 to R213: what follows the last step of a completed batch. -/
def State.endFrame (s : State) : State := s.countDown.cue.emit (.frame (Framebuffer.cells s.fb))

/-- R210: the steps of the batch in order; a fatal error abandons the rest (R214 c), else the frame ends. -/
def State.runBatch (s : State) : List Input → Host.Outcome State Fault Refusal
  | [] => .next s.endFrame
  | input :: rest =>
    match s.stepWith input with
    | .next t =>
      match t.halt with
      | some _ => .next t
      | none => t.runBatch rest
    | .fault r => .fault r
    | .refused r => .refused r

/-- R210, R214: `tick(n, inputs)`. -/
def State.tickWith (s : State) (inputs : List Input) : Host.Outcome State Fault Refusal :=
  match s.halt with
  | some h => .next (s.answer (.halted h.code))
  | none =>
    match inputs with
    | [] => .next s
    | input :: rest => s.runBatch (input :: rest)

/-! ### `reset` and `load` (R250 to R252) -/

/-- R250: every state element at its reset value; configuration and host ports stay. -/
def State.resetAll (s : State) : State := ((s.restore (Snapshot.reset s.cfg)).clearHalt).clearHist

/-- R5, R204: the largest ROM, 4096 - 0x200 bytes. -/
def maxRom : Nat := 3584

/-- R251: byte k of the ROM to `a + k`. -/
def State.copyRom (s : State) (a : Addr) : List Byte → State
  | [] => s
  | b :: bytes => (s.writeByte a b).copyRom (a + 1) bytes

/-- R251, R252: `load(bytes)`. The size check comes first. -/
def State.loadRom (s : State) (bytes : List Byte) : State :=
  if maxRom < bytes.length then (s.raise (.invalidProgramLoad bytes.length)).answer .invalidProgramLoad
  else ((s.resetAll.copyRom 0x200 bytes).emit .stateChanged).answer .ok

/-! ### `rewind`, `get_snapshot`, `restore_snapshot` (R219 to R222) -/

/-- R219: `rewind`. -/
def State.rewindOnce (s : State) : State :=
  match s.hist.getLast? with
  | none => (s.emit .rewindEmpty).answer .empty
  | some p => ((s.dropNewest.restore p).emit .stateChanged).answer .ok

/-- R221: `restore_snapshot(p)`; an ill-formed value is refused. -/
def State.restoreWith (s : State) (p : Snapshot) : Host.Outcome State Fault Refusal :=
  if p.wf s.cfg then .next ((s.restore p).emit .stateChanged) else .refused .illFormedSnapshot

/-! ### Commands in general -/

/-- One command from start to end (R8, R9). -/
def State.runCommand (s : State) (c : Command) : Host.Outcome State Fault Refusal :=
  match c with
  | .reset => .next s.beginCommand.resetAll
  | .load bytes => .next (s.beginCommand.loadRom bytes)
  | .step input => s.beginCommand.stepWith input
  | .tick inputs => s.beginCommand.tickWith inputs
  | .rewind => .next s.beginCommand.rewindOnce
  | .getSnapshot => .next (s.beginCommand.answer (.snapshot s.snapshot))
  | .restoreSnapshot p => s.beginCommand.restoreWith p

/-- The unconstrained input of a step nobody has requested yet (log 2). -/
def State.freeInput (s : State) : Input := { keys := Config.freeKeys s.draws, rnd := Config.freeRnd s.draws }

/-- The command the host issues next: the first pending one, else `step` with free inputs (log 1). -/
def State.nextCommand (s : State) : Command :=
  match s.host with
  | [] => .step s.freeInput
  | c :: _ => c

/-- The command is taken off the queue, or one draw is used up. -/
def State.takeCommand (s : State) : State :=
  match s.host with
  | [] => { s with draws := s.draws + 1 }
  | _ :: rest => { s with host := rest }

/-- One transition of the block: the next host command (R9). -/
def State.transition (s : State) : Host.Outcome State Fault Refusal := s.takeCommand.runCommand s.nextCommand

/-- `s` about to fetch the word `w`: stored at PC, and Running with no other command pending (log 26). -/
def State.aboutToFetch (s : State) (w : Word) : State :=
  { (s.writeWord s.pc w).clearHalt.setKw none with host := [] }

end Sys2Proof.Machine
end

