-- ==== Sys2Proof/Machine/Step.lean ====
section
/-! DEFINITION. One step of the machine: the next host command (spec/00_scope.md R8, R9), which is the command
`step` (spec/40_dispatch_cycle.md R90) when none is pending. -/

namespace Sys2Proof.Machine

/-- One transition of the block. -/
def step (s : State) : Host.Outcome State Fault Refusal := s.transition

/-- `s` with the instruction of a table row stored where `step` fetches its next instruction (log 26). -/
def State.withFetchWord (s : State) (nbits w : Nat) : State := s.aboutToFetch (tableWord nbits w)

end Sys2Proof.Machine
end

