-- ==== Sys2Proof/Safety.lean ====
section
/-! DEFINITION. What claims are stated in terms of: the execution modes, the invariant, the parts of the state a
transition leaves unchanged, and the cells a sprite covers. -/

namespace Sys2Proof.Machine

/-! ### Modes (spec/00_scope.md glossary, spec/60_exceptions.md R228) -/

/-- The three execution modes. -/
inductive Mode where
  | running
  | awaitingKey (x : Reg)
  | halted
  deriving DecidableEq, Repr

/-- Halted when HALT is set, else AwaitingKey(x) when KW = x, else Running. -/
def State.mode (s : State) : Mode :=
  match s.halt, s.kw with
  | some _, _ => .halted
  | none, some x => .awaitingKey x
  | none, none => .running

/-! ### The invariant -/

/-- Parameters in their ranges (R5); memory canonical, STACK_CAP slots and SP at most STACK_CAP (R26, R27) in
the live state and in every history entry; at most HIST_CAP entries (R32). -/
def State.inv (s : State) : Bool :=
  s.cfg.wf && s.toSnapshot.wf s.cfg && s.hist.all (fun p => p.wf s.cfg) &&
    decide (s.hist.length ≤ s.cfg.histCap)

/-! ### Frames -/

/-- The parts of the state. -/
inductive Part where
  | registers
  | index
  | pc
  | memory
  | stackSlots
  | stackPointer
  | display
  | delayTimer
  | soundTimer
  | keyWait
  | halt
  | history
  | config
  | inputs
  | requests
  | events
  | result
  deriving DecidableEq, Repr

/-- The part reads the same in both states; memory is compared byte by byte. -/
def Part.Same : Part → State → State → Prop
  | .registers, s, t => ∀ r, t.getV r = s.getV r
  | .index, s, t => t.i = s.i
  | .pc, s, t => t.pc = s.pc
  | .memory, s, t => ∀ a, t.readByte a = s.readByte a
  | .stackSlots, s, t => ∀ k, t.stackAt k = s.stackAt k
  | .stackPointer, s, t => t.sp = s.sp
  | .display, s, t => ∀ row col, t.cell row col = s.cell row col
  | .delayTimer, s, t => t.dt = s.dt
  | .soundTimer, s, t => t.st = s.st
  | .keyWait, s, t => t.kw = s.kw
  | .halt, s, t => t.halt = s.halt
  | .history, s, t => t.hist = s.hist
  | .config, s, t => t.cfg = s.cfg
  | .inputs, s, t => t.keys = s.keys ∧ t.rnd = s.rnd ∧ t.draws = s.draws
  | .requests, s, t => t.host = s.host
  | .events, s, t => t.events = s.events
  | .result, s, t => t.result = s.result

/-- The frame of a transition: every part but the listed ones is unchanged. -/
def KeepsAllBut (parts : List Part) (s t : State) : Prop := ∀ p, p ∉ parts → p.Same s t

/-- The registers outside a list are unchanged. -/
def KeepsRegsBut (regs : List Reg) (s t : State) : Prop := ∀ r, r ∉ regs → t.getV r = s.getV r

/-! ### What each instruction may write -/

/-- The parts an instruction may change, besides the PC advance of R94, which precedes it: R22 and R24 to R31 with
the family files' own "touches". RET and CALL may raise an error instead (R205). -/
def Instr.writes : Instr → List Part
  | .cls => [.display]
  | .ret => [.pc, .stackPointer, .halt, .events]
  | .jp _ | .jpV0 _ => [.pc]
  | .call _ => [.pc, .stackSlots, .stackPointer, .halt, .events]
  | .seNn _ _ | .sneNn _ _ | .seVy _ _ | .sneVy _ _ | .skp _ | .sknp _ => [.pc]
  | .ldNn _ _ | .addNn _ _ | .ldVy _ _ | .orVy _ _ | .andVy _ _ | .xorVy _ _ => [.registers]
  | .addVy _ _ | .subVy _ _ | .shrVy _ _ | .subnVy _ _ | .shlVy _ _ | .rnd _ _ => [.registers]
  | .ldI _ | .addI _ | .ldF _ => [.index]
  | .drw _ _ _ => [.display, .registers]
  | .ldVxDt _ => [.registers]
  | .ldVxK _ => [.registers, .keyWait, .events]
  | .ldDtVx _ => [.delayTimer]
  | .ldStVx _ => [.soundTimer]
  | .ldB _ => [.memory]
  | .ldMemVx _ => [.memory, .index]
  | .ldVxMem _ => [.registers, .index]

/-- R22: the six instructions that write VF as a flag. -/
def Instr.setsFlag : Instr → Bool
  | .addVy _ _ | .subVy _ _ | .shrVy _ _ | .subnVy _ _ | .shlVy _ _ | .drw _ _ _ => true
  | .cls | .ret | .jp _ | .call _ | .seNn _ _ | .sneNn _ _ | .seVy _ _ | .ldNn _ _ | .addNn _ _
  | .ldVy _ _ | .orVy _ _ | .andVy _ _ | .xorVy _ _ | .sneVy _ _ | .ldI _ | .jpV0 _ | .rnd _ _
  | .skp _ | .sknp _ | .ldVxDt _ | .ldVxK _ | .ldDtVx _ | .ldStVx _ | .addI _ | .ldF _ | .ldB _
  | .ldMemVx _ | .ldVxMem _ => false

/-- `r` is a destination register of the instruction: its x field, or any of V0 to Vx for Fx65 (R21). -/
def Instr.isDest (r : Reg) : Instr → Bool
  | .ldNn x _ | .addNn x _ | .ldVy x _ | .orVy x _ | .andVy x _ | .xorVy x _ => r == x
  | .addVy x _ | .subVy x _ | .shrVy x _ | .subnVy x _ | .shlVy x _ | .rnd x _ => r == x
  | .ldVxDt x | .ldVxK x => r == x
  | .ldVxMem x => decide (r.toNat ≤ x.toNat)
  | .cls | .ret | .jp _ | .call _ | .seNn _ _ | .sneNn _ _ | .seVy _ _ | .sneVy _ _ | .ldI _ | .jpV0 _
  | .drw _ _ _ | .skp _ | .sknp _ | .ldDtVx _ | .ldStVx _ | .addI _ | .ldF _ | .ldB _ | .ldMemVx _ => false

/-- R95: the instructions that read `keys`. -/
def Instr.readsKeys : Instr → Bool
  | .skp _ | .sknp _ | .ldVxK _ => true
  | .cls | .ret | .jp _ | .call _ | .seNn _ _ | .sneNn _ _ | .seVy _ _ | .ldNn _ _ | .addNn _ _
  | .ldVy _ _ | .orVy _ _ | .andVy _ _ | .xorVy _ _ | .addVy _ _ | .subVy _ _ | .shrVy _ _ | .subnVy _ _
  | .shlVy _ _ | .sneVy _ _ | .ldI _ | .jpV0 _ | .rnd _ _ | .drw _ _ _ | .ldVxDt _ | .ldDtVx _ | .ldStVx _
  | .addI _ | .ldF _ | .ldB _ | .ldMemVx _ | .ldVxMem _ => false

/-- R95: the instruction that reads `rnd`. -/
def Instr.readsRnd : Instr → Bool
  | .rnd _ _ => true
  | .cls | .ret | .jp _ | .call _ | .seNn _ _ | .sneNn _ _ | .seVy _ _ | .ldNn _ _ | .addNn _ _
  | .ldVy _ _ | .orVy _ _ | .andVy _ _ | .xorVy _ _ | .addVy _ _ | .subVy _ _ | .shrVy _ _ | .subnVy _ _
  | .shlVy _ _ | .sneVy _ _ | .ldI _ | .jpV0 _ | .drw _ _ _ | .skp _ | .sknp _ | .ldVxDt _ | .ldVxK _
  | .ldDtVx _ | .ldStVx _ | .addI _ | .ldF _ | .ldB _ | .ldMemVx _ | .ldVxMem _ => false

/-! ### Encodings -/

/-- R74, R75: every word that has `pattern` under `mask` decodes to the instruction `make` reads from it. -/
def DecodesAs (mask pattern : Word) (make : Word → Instr) : Prop :=
  ∀ w, w &&& mask = pattern → decodeWord w = some (make w)

/-! ### Sprites (R171 to R173) -/

/-- Sprite bit (r, c) of the n-row sprite at I is set and lands on the cell, when it is drawn at column x0 and
row y0. -/
def SpriteCovers (s : State) (x0 y0 : Byte) (n : Nat) (row : Fin 32) (col : Fin 64) : Prop :=
  ∃ r c : Nat, r < n ∧ c < 8 ∧ (s.readByte (s.ea r)).getLsbD (7 - c) = true ∧
    row.val = (y0.toNat + r) % 32 ∧ col.val = (x0.toNat + c) % 64

/-! ### Runs of steps -/

/-- The steps of a batch one after the other; after one that halts the block the rest change no state (R91). -/
def State.stepAll (s : State) : List Input → Host.Outcome State Fault Refusal
  | [] => .next s
  | input :: rest =>
    match s.stepWith input with
    | .next t => t.stepAll rest
    | .fault r => .fault r
    | .refused r => .refused r

/-- How many steps a command performs when nothing halts it (R210, R217). -/
def Command.steps : Command → Nat
  | .step _ => 1
  | .tick inputs => inputs.length
  | .reset | .load _ | .rewind | .getSnapshot | .restoreSnapshot _ => 0

/-- The commands that only step the block. -/
def Command.isStepping : Command → Bool
  | .step _ | .tick _ => true
  | .reset | .load _ | .rewind | .getSnapshot | .restoreSnapshot _ => false

end Sys2Proof.Machine
end

