-- ==== Sys2Proof/Certificates/Slice0/Obligations.lean ====
section
/-! DEFINITION. The statements for the provers. `exec i s` is stated of the state `s` after fetch and PC advance
(spec/40_dispatch_cycle.md R94): in it PC is the address of the instruction plus 2. Where a statement rests on a
choice of the spec's own (a D of spec/92_eei_decisions.md) or of the model's (a log entry), its docstring says
so. -/

open Sys2Proof Sys2Proof.Machine

/-! ### Encoding -/

/-- spec/30_encoding.md sections 1 and 2 (the bit patterns are the spec's general knowledge, its G1): the bytes of
any instruction, whatever follows them, decode to that instruction and leave what follows. -/
def Obligations.DecodeOfEncodeIsIdentity : Prop :=
  ∀ (i : Instr) (rest : List Byte),
    decodeBytes (encode i ++ rest) = .ok (i, rest) ∧ (encode i).length = 2

/-- spec/30_encoding.md sections 1 and 2, the other direction: a word that decodes is the word of its instruction, so
no bit is dropped. It rests on the exact matching of sub-opcode bits, the spec's D9 (log 14). -/
def Obligations.EncodeOfDecodeIsIdentity : Prop :=
  ∀ (w : Word) (i : Instr), decodeWord w = some i → encodeWord i = w

/-- spec/30_encoding.md section 2 (exact matching is the spec's D9): at most one row of the map accepts a word, the
word decodes as that row says, and with no row there is no instruction. -/
def Obligations.OpcodeRowsDecodeUniquely : Prop :=
  ∀ w : Word, (rows.filter fun r => r.accepts w).length ≤ 1 ∧
    (∀ r ∈ rows, r.accepts w = true → decodeWord w = some (r.format.instr w)) ∧
    ((∀ r ∈ rows, r.accepts w = false) → decodeWord w = none)

/-- spec/30_encoding.md section 3 (its list of illegal words, by class, is `Word.legal`; D8, D9): a word decodes
exactly when the list does not name it. -/
def Obligations.DecoderAcceptsExactlyLegalWords : Prop :=
  ∀ w : Word, (decodeWord w).isSome = Word.legal w

/-- Words written out from the spec: D0's three, and of the vectors of spec/95_test_vectors.md T1, T3 to T6, T8 and
T10. That 0x0000 does not decode is the spec's D8 and that 0x5121 does not its D9 (log 14). -/
def Obligations.WrittenOutWordsDecode : Prop :=
  decodeWord 0x6005 = some (.ldNn 0 5) ∧ decodeWord 0x7003 = some (.addNn 0 3) ∧
  decodeWord 0xF00A = some (.ldVxK 0) ∧ decodeWord 0x1ABC = some (.jp 0xABC) ∧
  decodeWord 0x8AB4 = some (.addVy 10 11) ∧ decodeWord 0xD12F = some (.drw 1 2 15) ∧
  decodeWord 0xF933 = some (.ldB 9) ∧ decodeWord 0x00E0 = some .cls ∧
  decodeWord 0x0000 = none ∧ decodeWord 0x5121 = none

/-! ### Control transfer -/

/-- R111: PC becomes nnn and nothing else changes. -/
def Obligations.JpSetsPc : Prop :=
  DecodesAs 0xF000 0x1000 (fun w => .jp (fieldNnn w)) ∧
  ∀ (nnn : Addr) (s : State), ∃ t, exec (.jp nnn) s = .next t ∧ t.pc = nnn ∧ KeepsAllBut [.pc] s t

/-- spec/41_control_flow.md section 2 (the wrap of the sum is the spec's D3): PC becomes nnn + V0 mod 4096. -/
def Obligations.JpV0AddsV0 : Prop :=
  DecodesAs 0xF000 0xB000 (fun w => .jpV0 (fieldNnn w)) ∧
  ∀ (nnn : Addr) (s : State), ∃ t, exec (.jpV0 nnn) s = .next t ∧
    t.pc.toNat = (nnn.toNat + (s.getV 0).toNat) % 4096 ∧ KeepsAllBut [.pc] s t

/-- R112, R202: with a free slot the return address is pushed and PC becomes nnn; with SP = STACK_CAP the call raises
StackOverflow and writes nothing else (the word and address it records are in `FatalStepIsPrecise`). -/
def Obligations.CallPushesOrOverflows : Prop :=
  DecodesAs 0xF000 0x2000 (fun w => .call (fieldNnn w)) ∧
  ∀ (nnn : Addr) (s : State), s.inv = true →
    (s.sp.toNat ≠ s.cfg.stackCap → ∃ t, exec (.call nnn) s = .next t ∧
      t.stackAt s.sp = s.pc ∧ t.sp.toNat = s.sp.toNat + 1 ∧ t.pc = nnn ∧
      (∀ k, k ≠ s.sp → t.stackAt k = s.stackAt k) ∧
      KeepsAllBut [.pc, .stackSlots, .stackPointer] s t) ∧
    (s.sp.toNat = s.cfg.stackCap → ∃ t, exec (.call nnn) s = .next t ∧
      t.halt.map Halt.code = some .stackOverflow ∧ KeepsAllBut [.halt, .events] s t)

/-- R110, R203: with a slot in use SP goes down by 1 and PC is read from the slot, which keeps its value; with SP = 0
the return raises StackUnderflow and writes nothing else (the word and address it records are in
`FatalStepIsPrecise`). -/
def Obligations.RetPopsOrUnderflows : Prop :=
  DecodesAs 0xFFFF 0x00EE (fun _ => .ret) ∧
  ∀ s : State,
    (s.sp ≠ 0 → ∃ t, exec .ret s = .next t ∧ t.sp.toNat + 1 = s.sp.toNat ∧ t.pc = s.stackAt t.sp ∧
      KeepsAllBut [.pc, .stackPointer] s t) ∧
    (s.sp = 0 → ∃ t, exec .ret s = .next t ∧
      t.halt.map Halt.code = some .stackUnderflow ∧ KeepsAllBut [.halt, .events] s t)

/-- spec/41_control_flow.md section 1 (the spec derives it): a return in any later state whose stack is as the call
left it gives PC the address after the call and SP its value from before; the slot still holds the address. -/
def Obligations.CallThenReturnRestoresPc : Prop :=
  ∀ (nnn : Addr) (s t r : State), s.inv = true → s.sp.toNat ≠ s.cfg.stackCap →
    exec (.call nnn) s = .next t → r.sp = t.sp → (∀ k, r.stackAt k = t.stackAt k) →
    ∃ u, exec .ret r = .next u ∧ u.pc = s.pc ∧ u.sp = s.sp ∧ u.stackAt u.sp = s.pc

/-- spec/41_control_flow.md section 3 (the wrap of PC is the spec's D3): the four skips of the control-flow family move
PC 2 further, mod 4096, exactly when their condition holds, and change nothing else. -/
def Obligations.SkipsFollowTheirConditions : Prop :=
  DecodesAs 0xF000 0x3000 (fun w => .seNn (fieldX w) (fieldNn w)) ∧
  DecodesAs 0xF000 0x4000 (fun w => .sneNn (fieldX w) (fieldNn w)) ∧
  DecodesAs 0xF00F 0x5000 (fun w => .seVy (fieldX w) (fieldY w)) ∧
  DecodesAs 0xF00F 0x9000 (fun w => .sneVy (fieldX w) (fieldY w)) ∧
  ∀ (x y : Reg) (nn : Byte) (s : State),
    (∃ t, exec (.seNn x nn) s = .next t ∧ KeepsAllBut [.pc] s t ∧
      t.pc.toNat = if s.getV x = nn then (s.pc.toNat + 2) % 4096 else s.pc.toNat) ∧
    (∃ t, exec (.sneNn x nn) s = .next t ∧ KeepsAllBut [.pc] s t ∧
      t.pc.toNat = if s.getV x ≠ nn then (s.pc.toNat + 2) % 4096 else s.pc.toNat) ∧
    (∃ t, exec (.seVy x y) s = .next t ∧ KeepsAllBut [.pc] s t ∧
      t.pc.toNat = if s.getV x = s.getV y then (s.pc.toNat + 2) % 4096 else s.pc.toNat) ∧
    (∃ t, exec (.sneVy x y) s = .next t ∧ KeepsAllBut [.pc] s t ∧
      t.pc.toNat = if s.getV x ≠ s.getV y then (s.pc.toNat + 2) % 4096 else s.pc.toNat)

/-! ### Register load, arithmetic, logic, shift, random -/

/-- R130, R132: `V[x]` receives nn or `V[y]`; nothing else changes, VF only when x = 15. -/
def Obligations.LoadsWriteVx : Prop :=
  DecodesAs 0xF000 0x6000 (fun w => .ldNn (fieldX w) (fieldNn w)) ∧
  DecodesAs 0xF00F 0x8000 (fun w => .ldVy (fieldX w) (fieldY w)) ∧
  ∀ (x y : Reg) (nn : Byte) (s : State),
    (∃ t, exec (.ldNn x nn) s = .next t ∧ t.getV x = nn ∧
      KeepsRegsBut [x] s t ∧ KeepsAllBut [.registers] s t) ∧
    (∃ t, exec (.ldVy x y) s = .next t ∧ t.getV x = s.getV y ∧
      KeepsRegsBut [x] s t ∧ KeepsAllBut [.registers] s t)

/-- R131: `V[x]` receives the sum mod 256; VF is not written as a flag. -/
def Obligations.AddImmediateWrapsWithoutFlag : Prop :=
  DecodesAs 0xF000 0x7000 (fun w => .addNn (fieldX w) (fieldNn w)) ∧
  ∀ (x : Reg) (nn : Byte) (s : State), ∃ t, exec (.addNn x nn) s = .next t ∧
    (t.getV x).toNat = ((s.getV x).toNat + nn.toNat) % 256 ∧
    KeepsRegsBut [x] s t ∧ KeepsAllBut [.registers] s t

/-- R133 to R135: OR, AND and XOR bit by bit; VF is not reset. -/
def Obligations.LogicCombinesBitsWithoutFlag : Prop :=
  DecodesAs 0xF00F 0x8001 (fun w => .orVy (fieldX w) (fieldY w)) ∧
  DecodesAs 0xF00F 0x8002 (fun w => .andVy (fieldX w) (fieldY w)) ∧
  DecodesAs 0xF00F 0x8003 (fun w => .xorVy (fieldX w) (fieldY w)) ∧
  ∀ (x y : Reg) (s : State),
    (∃ t, exec (.orVy x y) s = .next t ∧
      (∀ k, (t.getV x).getLsbD k = ((s.getV x).getLsbD k || (s.getV y).getLsbD k)) ∧
      KeepsRegsBut [x] s t ∧ KeepsAllBut [.registers] s t) ∧
    (∃ t, exec (.andVy x y) s = .next t ∧
      (∀ k, (t.getV x).getLsbD k = ((s.getV x).getLsbD k && (s.getV y).getLsbD k)) ∧
      KeepsRegsBut [x] s t ∧ KeepsAllBut [.registers] s t) ∧
    (∃ t, exec (.xorVy x y) s = .next t ∧
      (∀ k, (t.getV x).getLsbD k = ((s.getV x).getLsbD k ^^ (s.getV y).getLsbD k)) ∧
      KeepsRegsBut [x] s t ∧ KeepsAllBut [.registers] s t)

/-- R136: the sum mod 256 in `V[x]` (unless x = 15) and the carry in VF, always written last. -/
def Obligations.AddRegistersSetsCarry : Prop :=
  DecodesAs 0xF00F 0x8004 (fun w => .addVy (fieldX w) (fieldY w)) ∧
  ∀ (x y : Reg) (s : State), ∃ t, exec (.addVy x y) s = .next t ∧
    (x ≠ VF → (t.getV x).toNat = ((s.getV x).toNat + (s.getV y).toNat) % 256) ∧
    t.getV VF = (if (s.getV x).toNat + (s.getV y).toNat > 255 then 1 else 0) ∧
    KeepsRegsBut [x, VF] s t ∧ KeepsAllBut [.registers] s t

/-- R137, R139: the difference mod 256 in `V[x]` (unless x = 15) and no-borrow in VF; SUB takes `V[y]` from `V[x]`,
SUBN takes `V[x]` from `V[y]`. -/
def Obligations.SubtractionsSetNoBorrow : Prop :=
  DecodesAs 0xF00F 0x8005 (fun w => .subVy (fieldX w) (fieldY w)) ∧
  DecodesAs 0xF00F 0x8007 (fun w => .subnVy (fieldX w) (fieldY w)) ∧
  ∀ (x y : Reg) (s : State),
    (∃ t, exec (.subVy x y) s = .next t ∧
      (x ≠ VF → (t.getV x).toNat = (256 + (s.getV x).toNat - (s.getV y).toNat) % 256) ∧
      t.getV VF = (if (s.getV x).toNat ≥ (s.getV y).toNat then 1 else 0) ∧
      KeepsRegsBut [x, VF] s t ∧ KeepsAllBut [.registers] s t) ∧
    (∃ t, exec (.subnVy x y) s = .next t ∧
      (x ≠ VF → (t.getV x).toNat = (256 + (s.getV y).toNat - (s.getV x).toNat) % 256) ∧
      t.getV VF = (if (s.getV y).toNat ≥ (s.getV x).toNat then 1 else 0) ∧
      KeepsRegsBut [x, VF] s t ∧ KeepsAllBut [.registers] s t)

/-- R138, R140: `V[y]` shifted one position in `V[x]` (unless x = 15), the bit shifted out in VF. -/
def Obligations.ShiftsMoveVyAndSetFlag : Prop :=
  DecodesAs 0xF00F 0x8006 (fun w => .shrVy (fieldX w) (fieldY w)) ∧
  DecodesAs 0xF00F 0x800E (fun w => .shlVy (fieldX w) (fieldY w)) ∧
  ∀ (x y : Reg) (s : State),
    (∃ t, exec (.shrVy x y) s = .next t ∧
      (x ≠ VF → (t.getV x).toNat = (s.getV y).toNat / 2) ∧
      (t.getV VF).toNat = (s.getV y).toNat % 2 ∧
      KeepsRegsBut [x, VF] s t ∧ KeepsAllBut [.registers] s t) ∧
    (∃ t, exec (.shlVy x y) s = .next t ∧
      (x ≠ VF → (t.getV x).toNat = (s.getV y).toNat * 2 % 256) ∧
      (t.getV VF).toNat = (s.getV y).toNat / 128 ∧
      KeepsRegsBut [x, VF] s t ∧ KeepsAllBut [.registers] s t)

/-- spec/42_register_alu.md section 4 (the random byte is a free input by the spec's D17 and the model's log 2): for
every value of the input `V[x]` receives its bits under nn. -/
def Obligations.RandomIsInputUnderMask : Prop :=
  DecodesAs 0xF000 0xC000 (fun w => .rnd (fieldX w) (fieldNn w)) ∧
  ∀ (x : Reg) (nn : Byte) (s : State), ∃ t, exec (.rnd x nn) s = .next t ∧
    (∀ k, (t.getV x).getLsbD k = (s.rnd.getLsbD k && nn.getLsbD k)) ∧
    KeepsRegsBut [x] s t ∧ KeepsAllBut [.registers] s t

/-! ### Address register and memory -/

/-- R150: I becomes nnn, bits 15:12 zero. -/
def Obligations.LdISetsIndex : Prop :=
  DecodesAs 0xF000 0xA000 (fun w => .ldI (fieldNnn w)) ∧
  ∀ (nnn : Addr) (s : State), ∃ t, exec (.ldI nnn) s = .next t ∧ t.i.toNat = nnn.toNat ∧
    KeepsAllBut [.index] s t

/-- spec/43_index_memory.md section 1 (the width of I is the spec's D4): I + `V[x]` mod 65536, no flag. -/
def Obligations.AddIWrapsAtSixteenBits : Prop :=
  DecodesAs 0xF0FF 0xF01E (fun w => .addI (fieldX w)) ∧
  ∀ (x : Reg) (s : State), ∃ t, exec (.addI x) s = .next t ∧
    t.i.toNat = (s.i.toNat + (s.getV x).toNat) % 65536 ∧ KeepsAllBut [.index] s t

/-- R152: I becomes (`V[x]` mod 16) × 5. -/
def Obligations.LdFSelectsGlyph : Prop :=
  DecodesAs 0xF0FF 0xF029 (fun w => .ldF (fieldX w)) ∧
  ∀ (x : Reg) (s : State), ∃ t, exec (.ldF x) s = .next t ∧
    t.i.toNat = (s.getV x).toNat % 16 * 5 ∧ KeepsAllBut [.index] s t

/-- spec/43_index_memory.md section 2 (the ascending order is the spec's D7, the address wrap its D5): the three
decimal digits at `(I + 0, 1, 2) mod 4096`; I and every other byte unchanged. -/
def Obligations.BcdStoresThreeDigits : Prop :=
  DecodesAs 0xF0FF 0xF033 (fun w => .ldB (fieldX w)) ∧
  ∀ (x : Reg) (s : State), ∃ t, exec (.ldB x) s = .next t ∧
    (∀ k, (s.ea k).toNat = (s.i.toNat + k) % 4096) ∧
    (t.readByte (s.ea 0)).toNat = (s.getV x).toNat / 100 ∧
    (t.readByte (s.ea 1)).toNat = (s.getV x).toNat / 10 % 10 ∧
    (t.readByte (s.ea 2)).toNat = (s.getV x).toNat % 10 ∧
    (∀ a, a ≠ s.ea 0 → a ≠ s.ea 1 → a ≠ s.ea 2 → t.readByte a = s.readByte a) ∧
    KeepsAllBut [.memory] s t

/-- spec/43_index_memory.md section 3 (the wraps are the spec's D4 and D5): V0 to Vx at `(I + k) mod 4096`, ascending,
every other byte unchanged, I past the block. -/
def Obligations.BlockStoreWritesRegisters : Prop :=
  DecodesAs 0xF0FF 0xF055 (fun w => .ldMemVx (fieldX w)) ∧
  ∀ (x : Reg) (s : State), ∃ t, exec (.ldMemVx x) s = .next t ∧
    (∀ k, (s.ea k).toNat = (s.i.toNat + k) % 4096) ∧
    (∀ r : Reg, r.toNat ≤ x.toNat → t.readByte (s.ea r.toNat) = s.getV r) ∧
    (∀ a, (∀ k ≤ x.toNat, a ≠ s.ea k) → t.readByte a = s.readByte a) ∧
    t.i.toNat = (s.i.toNat + x.toNat + 1) % 65536 ∧ KeepsAllBut [.memory, .index] s t

/-- spec/43_index_memory.md section 3 (the wraps are the spec's D4 and D5): V0 to Vx from `(I + k) mod 4096`, registers
above x and all of memory unchanged, I past the block. -/
def Obligations.BlockLoadReadsRegisters : Prop :=
  DecodesAs 0xF0FF 0xF065 (fun w => .ldVxMem (fieldX w)) ∧
  ∀ (x : Reg) (s : State), ∃ t, exec (.ldVxMem x) s = .next t ∧
    (∀ k, (s.ea k).toNat = (s.i.toNat + k) % 4096) ∧
    (∀ r : Reg, r.toNat ≤ x.toNat → t.getV r = s.readByte (s.ea r.toNat)) ∧
    (∀ r : Reg, x.toNat < r.toNat → t.getV r = s.getV r) ∧
    t.i.toNat = (s.i.toNat + x.toNat + 1) % 65536 ∧ KeepsAllBut [.registers, .index] s t

/-- spec/20_memory.md section 5 (the spec derives it; the wrap of the addresses is its D5, log 11): after a block
store of at least two registers, a fetch at the block's address reads V0 as the high byte and V1 as the low byte. -/
def Obligations.StoreIsSeenByTheNextFetch : Prop :=
  ∀ (x : Reg) (s t : State), 1 ≤ x.toNat → exec (.ldMemVx x) s = .next t →
    (t.setPc (s.ea 0)).fetch = wordOfBytes (s.getV 0) (s.getV 1)

/-! ### Display -/

/-- R170: every cell becomes 0 and nothing else changes. -/
def Obligations.ClsBlanksDisplay : Prop :=
  DecodesAs 0xFFFF 0x00E0 (fun _ => .cls) ∧
  ∀ s : State, ∃ t, exec .cls s = .next t ∧ (∀ row col, t.cell row col = false) ∧
    KeepsAllBut [.display] s t

/-- spec/44_display.md section 2 (the wrap is the spec's D6, the bit order its D12): exactly the cells the sprite
covers are inverted; VF alone of the registers is written, and memory and I are not. -/
def Obligations.DrwInvertsCoveredCells : Prop :=
  DecodesAs 0xF000 0xD000 (fun w => .drw (fieldX w) (fieldY w) (fieldN w)) ∧
  ∀ (x y : Reg) (n : Nibble) (s : State), ∃ t, exec (.drw x y n) s = .next t ∧
    (∀ row col, SpriteCovers s (s.getV x) (s.getV y) n.toNat row col →
      t.cell row col = !s.cell row col) ∧
    (∀ row col, ¬SpriteCovers s (s.getV x) (s.getV y) n.toNat row col →
      t.cell row col = s.cell row col) ∧
    KeepsRegsBut [VF] s t ∧ KeepsAllBut [.display, .registers] s t

/-- spec/44_display.md section 2 (which cells a sprite covers rests on the spec's D6 and D12): VF is 1 when some cell
went from 1 to 0, and 0 otherwise; that is, when the sprite covers a cell that was lit. -/
def Obligations.DrwFlagsCollision : Prop :=
  ∀ (x y : Reg) (n : Nibble) (s : State), ∃ t, exec (.drw x y n) s = .next t ∧
    ((∃ row col, s.cell row col = true ∧ t.cell row col = false) → t.getV VF = 1) ∧
    (¬(∃ row col, s.cell row col = true ∧ t.cell row col = false) → t.getV VF = 0) ∧
    (t.getV VF = 1 ↔
      ∃ row col, SpriteCovers s (s.getV x) (s.getV y) n.toNat row col ∧ s.cell row col = true)

/-- D0 §8 (S8 of spec/95_test_vectors.md) and spec/44_display.md section 2 (the wrap is the spec's D6, the bit order
its D12, log 12), on any display: drawing the same sprite twice at the same place restores the display; on a blank one
the first draw sets VF = 0 and the second sets VF = 1 exactly when the sprite lit something. With x = 15 or y = 15 the
first flag moves the second draw. -/
def Obligations.DrawingTwiceRestoresDisplay : Prop :=
  ∀ (x y : Reg) (n : Nibble) (s t u : State), x ≠ VF → y ≠ VF →
    exec (.drw x y n) s = .next t → exec (.drw x y n) t = .next u →
    (∀ row col, u.cell row col = s.cell row col) ∧
    ((∀ row col, s.cell row col = false) → t.getV VF = 0 ∧
      (u.getV VF = 1 ↔ ∃ row col, t.cell row col = true))

/-! ### Keypad and timers -/

/-- spec/45_keypad_timer_io.md section 2 (the low nibble of `V[x]` is the spec's D16, log 16; the wrap of PC its D3, log
10): SKP skips when key `V[x]` mod 16 is pressed, SKNP when it is not; neither changes anything but PC, so no key is
consumed. -/
def Obligations.KeySkipsFollowTheKey : Prop :=
  DecodesAs 0xF0FF 0xE09E (fun w => .skp (fieldX w)) ∧
  DecodesAs 0xF0FF 0xE0A1 (fun w => .sknp (fieldX w)) ∧
  ∀ (x : Reg) (s : State),
    (∃ t, exec (.skp x) s = .next t ∧ KeepsAllBut [.pc] s t ∧
      t.pc.toNat = if s.keys.getLsbD ((s.getV x).toNat % 16) = true then (s.pc.toNat + 2) % 4096
        else s.pc.toNat) ∧
    (∃ t, exec (.sknp x) s = .next t ∧ KeepsAllBut [.pc] s t ∧
      t.pc.toNat = if s.keys.getLsbD ((s.getV x).toNat % 16) = false then (s.pc.toNat + 2) % 4096
        else s.pc.toNat)

/-- spec/45_keypad_timer_io.md section 3 (immediate delivery is the spec's D13 and the lowest key its D14, log 15;
that a key is consumed by the event `key_consume` alone, the input staying as it is, its D15, log 17; that PC is not
moved back to wait its D34, log 18): with no key pressed Fx0A enters AwaitingKey(x) and writes nothing else; with a
key pressed it delivers the lowest one, consumes it and stays Running. -/
def Obligations.KeyReadWaitsOrDelivers : Prop :=
  DecodesAs 0xF0FF 0xF00A (fun w => .ldVxK (fieldX w)) ∧
  ∀ (x : Reg) (s : State),
    (s.keys = 0 → ∃ t, exec (.ldVxK x) s = .next t ∧ t.kw = some x ∧ KeepsAllBut [.keyWait] s t) ∧
    (s.keys ≠ 0 → ∃ (t : State) (k : Nibble), exec (.ldVxK x) s = .next t ∧
      s.keys.getLsbD k.toNat = true ∧ (∀ j < k.toNat, s.keys.getLsbD j = false) ∧
      (t.getV x).toNat = k.toNat ∧ KeepsRegsBut [x] s t ∧
      t.events = s.events ++ [.keyConsume k] ∧ KeepsAllBut [.registers, .events] s t)

/-- spec/45_keypad_timer_io.md section 4: Fx07 reads DT into `V[x]`, Fx15 and Fx18 write `V[x]` to DT and ST; nothing
else changes and nothing is emitted. -/
def Obligations.TimerInstructionsMoveBytes : Prop :=
  DecodesAs 0xF0FF 0xF007 (fun w => .ldVxDt (fieldX w)) ∧
  DecodesAs 0xF0FF 0xF015 (fun w => .ldDtVx (fieldX w)) ∧
  DecodesAs 0xF0FF 0xF018 (fun w => .ldStVx (fieldX w)) ∧
  ∀ (x : Reg) (s : State),
    (∃ t, exec (.ldVxDt x) s = .next t ∧ t.getV x = s.dt ∧ KeepsRegsBut [x] s t ∧
      KeepsAllBut [.registers] s t) ∧
    (∃ t, exec (.ldDtVx x) s = .next t ∧ t.dt = s.getV x ∧ KeepsAllBut [.delayTimer] s t) ∧
    (∃ t, exec (.ldStVx x) s = .next t ∧ t.st = s.getV x ∧ KeepsAllBut [.soundTimer] s t)

/-! ### All instructions -/

/-- spec/10_state.md section 2: a register changes only when the instruction names it as its destination, or when it is
VF and the instruction is one of the six flag setters; and those six leave 0 or 1 in VF. -/
def Obligations.RegistersChangeOnlyAsNamed : Prop :=
  ∀ (i : Instr) (s t : State), exec i s = .next t →
    (∀ r : Reg, Instr.isDest r i = false → (r ≠ VF ∨ Instr.setsFlag i = false) → t.getV r = s.getV r) ∧
    (Instr.setsFlag i = true → t.getV VF = 0 ∨ t.getV VF = 1)

/-- spec/10_state.md sections 3 to 9 and spec/20_memory.md section 1: every part of the state has only the writers the
spec lists for it (I, PC, the stack, the display, each timer, KW, HALT and memory). -/
def Obligations.EachPartHasItsWriters : Prop :=
  ∀ (i : Instr) (s t : State), exec i s = .next t → KeepsAllBut (Instr.writes i) s t

/-- spec/40_dispatch_cycle.md section 2: only Ex9E, ExA1 and Fx0A can tell two key inputs apart, and only Cxnn two
random inputs. -/
def Obligations.InputsAreReadByTheirInstructionsOnly : Prop :=
  ∀ (i : Instr) (s t : State) (input : Input), exec i s = .next t →
    (Instr.readsKeys i = false → exec i (s.sample ⟨input.keys, s.rnd⟩) = .next (t.sample ⟨input.keys, s.rnd⟩)) ∧
    (Instr.readsRnd i = false → exec i (s.sample ⟨s.keys, input.rnd⟩) = .next (t.sample ⟨s.keys, input.rnd⟩))

/-! ### The step cycle -/

/-- spec/40_dispatch_cycle.md sections 1 and 2 (the push of the pre-step state is the spec's D18, log 19; the wrap of
PC its D3, log 10; that PC stays advanced after a fatal error its D21, log 21; that retirement emits state_changed its
D29, log 25): in Running mode, when the host's next command is `step` and the big-endian word at PC decodes to i, the
step is `exec i` on the state with PC advanced by 2 and the inputs sampled, and then either the pre-step snapshot is
pushed and the step retires, or, where `exec` set HALT, it answers Fatal and pushes nothing. -/
def Obligations.StepRunsDecodedInstruction : Prop :=
  ∀ (s t : State) (input : Input) (i : Instr), s.mode = .running → s.nextCommand = .step input →
    decodeWord (wordOfBytes (s.readByte s.pc) (s.readByte (s.pc + 1))) = some i →
    exec i ((s.takeCommand.beginCommand.sample input).setPc (s.pc + 2)) = .next t →
    ∃ u, step s = .next u ∧ u.toSnapshot = t.toSnapshot ∧ u.halt = t.halt ∧
      KeepsAllBut [.history, .events, .result] t u ∧
      (t.halt = none → u.hist = pushHistory s.cfg.histCap s.hist s.toSnapshot ∧
        u.events = t.events ++ [.stateChanged] ∧ u.result = some .retired) ∧
      (∀ e, t.halt = some e → u.hist = s.hist ∧ u.events = t.events ∧ u.result = some (.fatal e.code))

/-- spec/60_exceptions.md section 1 and spec/40_dispatch_cycle.md section 2 (what is left behind is the spec's D21,
the wrap of PC its D3, the recorded word and address its D23): a word that does not decode halts the block with
DecodeError, its word and its address. -/
def Obligations.UndecodableWordHalts : Prop :=
  ∀ (s : State) (input : Input), s.mode = .running → s.nextCommand = .step input →
    decodeWord s.fetch = none →
    ∃ u, step s = .next u ∧ u.halt = some (.decodeError s.fetch s.pc) ∧
      u.toSnapshot = { s.toSnapshot with pc := s.pc + 2 } ∧ u.hist = s.hist ∧ u.cfg = s.cfg ∧
      u.events = [.fatal (.decodeError s.fetch s.pc)] ∧ u.result = some (.fatal .decodeError)

/-- R91: a step while HALT is set changes no state, pushes nothing, emits nothing and answers Halted(code). -/
def Obligations.HaltedStepChangesNothing : Prop :=
  ∀ (s : State) (input : Input) (e : Halt), s.halt = some e → s.nextCommand = .step input →
    ∃ u, step s = .next u ∧ u.toSnapshot = s.toSnapshot ∧ u.halt = s.halt ∧ u.hist = s.hist ∧
      u.cfg = s.cfg ∧ u.events = [] ∧ u.result = some (.halted e.code)

/-- spec/40_dispatch_cycle.md section 2 and spec/45_keypad_timer_io.md section 3 (the push of a poll is the spec's
D18, log 19; the lowest key its D14, log 15; delivery by the level of the sample, and consumption by the event alone,
its D15, log 17; that PC stays at the delivery too its D34, log 18; the events and their order its D29, log 25): a
step in AwaitingKey(x) fetches nothing and leaves PC; with no key pressed it changes nothing; else it delivers the
lowest pressed key to `V[x]`, consumes it and returns to Running. -/
def Obligations.AwaitingKeyPollsOnly : Prop :=
  ∀ (s : State) (input : Input) (x : Reg), s.mode = .awaitingKey x → s.nextCommand = .step input →
    (input.keys = 0 → ∃ u, step s = .next u ∧ u.toSnapshot = s.toSnapshot ∧ u.halt = none ∧
      u.hist = pushHistory s.cfg.histCap s.hist s.toSnapshot ∧ u.events = [] ∧
      u.result = some .noOpAwaitingKey) ∧
    (input.keys ≠ 0 → ∃ (u : State) (k : Nibble), step s = .next u ∧
      input.keys.getLsbD k.toNat = true ∧ (∀ j < k.toNat, input.keys.getLsbD j = false) ∧
      (u.getV x).toNat = k.toNat ∧ KeepsRegsBut [x] s u ∧ u.kw = none ∧
      u.hist = pushHistory s.cfg.histCap s.hist s.toSnapshot ∧
      u.events = [.keyConsume k, .stateChanged] ∧ u.result = some .retired ∧
      KeepsAllBut [.registers, .keyWait, .history, .inputs, .requests, .events, .result] s u)

/-- spec/60_exceptions.md section 2 (the spec's D21; the wrap of PC is its D3, the recorded word and address its D23):
a step that takes a fatal error has changed nothing of the snapshot but PC, which is 2 further, has pushed nothing,
has emitted `fatal` alone, and records the word it fetched and the address it fetched it from. -/
def Obligations.FatalStepIsPrecise : Prop :=
  ∀ (s u : State) (input : Input) (e : Halt), s.halt = none → s.nextCommand = .step input →
    step s = .next u → u.halt = some e →
    u.toSnapshot = { s.toSnapshot with pc := s.pc + 2 } ∧ u.hist = s.hist ∧ u.events = [.fatal e] ∧
      u.result = some (.fatal e.code) ∧
      (e = .decodeError s.fetch s.pc ∨ e = .stackOverflow s.fetch s.pc ∨ e = .stackUnderflow s.fetch s.pc)

/-- spec/40_dispatch_cycle.md section 3 and spec/41_control_flow.md section 1: a jump to its
own address changes no snapshot state. -/
def Obligations.JumpToSelfChangesNoSnapshotState : Prop :=
  ∀ (s : State) (input : Input), s.mode = .running → s.nextCommand = .step input →
    decodeWord s.fetch = some (.jp s.pc) →
    ∃ u, step s = .next u ∧ u.toSnapshot = s.toSnapshot ∧ u.halt = none

/-- spec/10_state.md section 9 (that the block keeps no record of past key samples and no generator state is the
spec's D15 and D17, logs 17 and 2; the ports are the model's own, log 3): what the input ports held before a step of a
block that is not halted does not matter. -/
def Obligations.OldInputsDoNotMatter : Prop :=
  ∀ (s : State) (input old : Input), s.halt = none → s.nextCommand = .step input →
    step (s.sample old) = step s

/-! ### Rewind -/

/-- spec/60_exceptions.md section 6 (the spec derives it; the push is its D18, log 19, and that a rewind leaves HALT
its D22, log 22): a step that retires or polls, followed by a rewind, restores all ten snapshot elements, and the
history too, less its oldest entry where it was full. -/
def Obligations.StepThenRewindRestores : Prop :=
  ∀ (s t : State) (input : Input) (rest : List Command), s.inv = true → s.halt = none →
    s.host = .step input :: .rewind :: rest → step s = .next t → t.halt = none →
    ∃ u, step t = .next u ∧ u.toSnapshot = s.toSnapshot ∧ u.halt = none ∧ u.host = rest ∧
      (s.hist.length < s.cfg.histCap → u.hist = s.hist) ∧
      (s.hist.length = s.cfg.histCap → u.hist = s.hist.drop 1)

/-- spec/60_exceptions.md section 6 (the spec derives it; the push is its D18, log 19, that a rewind leaves HALT its
D22, log 22, and that a tick of no steps changes nothing its D24, log 23): whatever steps and ticks the host issues,
if they perform n steps in all (n at most HIST_CAP) and none halts the block, n rewinds restore all ten snapshot
elements, the timer decrements of the ticks included. -/
def Obligations.RewindsUndoStepsAndTicks : Prop :=
  ∀ (s t : State) (cs rest : List Command), s.inv = true → s.halt = none →
    (∀ c ∈ cs, c.isStepping = true) → (cs.map Command.steps).sum ≤ s.cfg.histCap →
    s.host = cs ++ (List.replicate (cs.map Command.steps).sum .rewind ++ rest) →
    core.run cs.length s = .next t → t.halt = none →
    ∃ u, core.run (cs.map Command.steps).sum t = .next u ∧ u.toSnapshot = s.toSnapshot ∧ u.halt = none

/-! ### Invariants and whole-machine rules -/

/-- spec/10_state.md sections 5 and 10 and spec/00_scope.md section 3: the invariant holds right after reset. That SP is
0 and HIST empty there is the spec's D10 (log 9); that the parameters are the defaults, of which 16 is the spec's D2
and 2500 its D19, is the model's choice (log 7); the list form of memory is the model's own (log 8). -/
def Obligations.InvHoldsAtReset : Prop := State.inv State.reset = true

/-- spec/10_state.md sections 5 and 9: every transition, whatever the command, keeps the invariant: 0 ≤ SP ≤
STACK_CAP, STACK_CAP slots, canonical memory (the list form is the model's own, log 8), the same in every history
entry, at most HIST_CAP entries, parameters in the ranges of spec/00_scope.md section 3 (that State carries them is
the model's log 7). For `restore_snapshot` it holds because an ill-formed value, which the host must not pass
(spec/60_exceptions.md section 6), is refused: the spec's D28, log 6. -/
def Obligations.EveryStepKeepsInv : Prop :=
  ∀ s t : State, s.inv = true → step s = .next t → t.inv = true

/-- The parameters are configuration, not state (spec/10_state.md section 9; that State carries them is the model's log
7): no transition changes them. -/
def Obligations.NoStepChangesConfig : Prop :=
  ∀ s t : State, step s = .next t → t.cfg = s.cfg

/-- spec/60_exceptions.md sections 2 and 6 (the spec's D22): only `reset` and a `load` of at most 3584 bytes leave HALT
clear when it was set; no step, tick, rewind or snapshot command does. -/
def Obligations.OnlyResetOrLoadClearsHalt : Prop :=
  ∀ (s t : State) (e : Halt), s.halt = some e → step s = .next t → t.halt = none →
    s.nextCommand = .reset ∨ ∃ bytes, s.nextCommand = .load bytes ∧ bytes.length ≤ 3584

/-- spec/60_exceptions.md section 2 (R225's list) and section 6: every transition has a next state, but for
`restore_snapshot` of an ill-formed value, which is refused (the spec's D28, the model's logs 5 and 6). -/
def Obligations.EveryCommandCompletesOrIsRefused : Prop :=
  ∀ s : State, (∃ t, step s = .next t) ∨
    (step s = .refused .illFormedSnapshot ∧ ∃ p, s.nextCommand = .restoreSnapshot p ∧ p.wf s.cfg = false)

/-! ### Frame tick -/

/-- spec/60_exceptions.md section 4 (the order is the spec's D25 and the decrement while waiting for a key its D35,
log 23; the cell order its D29, log 25): when the steps of a batch, polls included, end in a state t that is not
halted, the tick ends in t with each timer down by 1 and clamped at 0, the audio cue where ST is still above 0, and
one frame with the 2048 cells row by row; it pushes nothing of its own and answers what the last step answered. -/
def Obligations.TickEndsTheFrame : Prop :=
  (∀ fb : Framebuffer, (Framebuffer.cells fb).length = 2048 ∧
    ∀ (row : Fin 32) (col : Fin 64), (Framebuffer.cells fb)[64 * row.val + col.val]? = some (fb.cell row col)) ∧
  ∀ (s t : State) (inputs : List Input), s.halt = none → inputs ≠ [] → s.nextCommand = .tick inputs →
    s.takeCommand.beginCommand.stepAll inputs = .next t → t.halt = none →
    ∃ u, step s = .next u ∧ u.dt.toNat = t.dt.toNat - 1 ∧ u.st.toNat = t.st.toNat - 1 ∧
      u.events = t.events ++ (if u.st = 0 then [] else [.audioCue u.st]) ++ [.frame (Framebuffer.cells t.fb)] ∧
      KeepsAllBut [.delayTimer, .soundTimer, .events] t u

/-- spec/60_exceptions.md section 4 (the spec's D24): a tick while Halted does nothing; a tick of no steps does
nothing; a fatal step ends the batch with no decrement and no frame event, whatever inputs remain. -/
def Obligations.TickEdgeCases : Prop :=
  (∀ (s : State) (inputs : List Input) (e : Halt), s.halt = some e → s.nextCommand = .tick inputs →
    ∃ u, step s = .next u ∧ u.events = [] ∧ u.result = some (.halted e.code) ∧
      KeepsAllBut [.requests, .events, .result] s u) ∧
  (∀ s : State, s.halt = none → s.nextCommand = .tick [] →
    ∃ u, step s = .next u ∧ u.events = [] ∧ u.result = none ∧
      KeepsAllBut [.requests, .events, .result] s u) ∧
  (∀ (s t u : State) (before after : List Input) (input : Input), s.halt = none →
    s.nextCommand = .tick (before ++ input :: after) →
    s.takeCommand.beginCommand.stepAll before = .next t → t.halt = none →
    t.stepWith input = .next u → u.halt ≠ none → step s = .next u)

/-- spec/60_exceptions.md section 6 (the spec's D18, log 19; for a tick of no steps its D24, log 23): a completed tick
of n steps makes a history of length h one of length min(h + n, HIST_CAP). -/
def Obligations.TickPushesOneSnapshotPerStep : Prop :=
  ∀ (s u : State) (inputs : List Input), s.inv = true → s.halt = none → s.nextCommand = .tick inputs →
    step s = .next u → u.halt = none →
    u.hist.length = min (s.hist.length + inputs.length) s.cfg.histCap

/-! ### Host commands -/

/-- spec/60_exceptions.md section 6 (the empty case is the spec's D20, log 20; that HALT stays its D22, log 22; the
event its D29, log 25): a rewind restores the newest entry and takes it off the history; on an empty history nothing
changes. HALT stays in both cases. -/
def Obligations.RewindRestoresNewest : Prop :=
  ∀ s : State, s.nextCommand = .rewind →
    (s.hist = [] → ∃ u, step s = .next u ∧ u.toSnapshot = s.toSnapshot ∧ u.hist = [] ∧ u.halt = s.halt ∧
      u.events = [.rewindEmpty] ∧ u.result = some .empty) ∧
    (∀ (older : List Snapshot) (p : Snapshot), s.hist = older ++ [p] →
      ∃ u, step s = .next u ∧ u.toSnapshot = p ∧ u.hist = older ∧ u.halt = s.halt ∧
        u.events = [.stateChanged] ∧ u.result = some .ok)

/-- spec/60_exceptions.md section 6 (the spec's D28, log 6; that HALT stays is its D22, log 22, the event its D29, log
25): `get_snapshot` answers the ten elements and changes nothing; `restore_snapshot` of a well-formed value makes them
that value; neither touches HIST or HALT. -/
def Obligations.SnapshotCommandsCopyState : Prop :=
  (∀ s : State, s.nextCommand = .getSnapshot →
    ∃ u, step s = .next u ∧ u.result = some (.snapshot s.toSnapshot) ∧ u.toSnapshot = s.toSnapshot ∧
      u.hist = s.hist ∧ u.halt = s.halt ∧ u.events = []) ∧
  (∀ (s : State) (p : Snapshot), s.nextCommand = .restoreSnapshot p → p.wf s.cfg = true →
    ∃ u, step s = .next u ∧ u.toSnapshot = p ∧ u.hist = s.hist ∧ u.halt = s.halt ∧
      u.events = [.stateChanged])

/-- The table of spec/10_state.md section 10 (its zeros are the spec's D10, log 9, its font bytes D11, log 8; the
parameters' values are the defaults of spec/00_scope.md section 3, the spec's D2 and D19, the model's log 7). The
table's stack slots are 0 to STACK_CAP - 1; that the read of a slot beyond them gives 0 too is the model's log 29. -/
def Obligations.ResetStateIsTheTable : Prop :=
  (∀ a : Addr, a.toNat < 80 → State.reset.readByte a = defaultFont[a.toNat]?.getD 0) ∧
  (∀ a : Addr, 80 ≤ a.toNat → State.reset.readByte a = 0) ∧
  (∀ r, State.reset.getV r = 0) ∧ State.reset.i = 0 ∧ State.reset.pc = 0x200 ∧
  (∀ k, State.reset.stackAt k = 0) ∧ State.reset.sp = 0 ∧ State.reset.stack.length = 16 ∧
  (∀ row col, State.reset.cell row col = false) ∧ State.reset.dt = 0 ∧ State.reset.st = 0 ∧
  State.reset.kw = none ∧ State.reset.haltCode = 0 ∧ State.reset.hist = []

/-- spec/70_reset_and_hazards.md section 1 (the command is the spec's D27, log 24; the reset values its D10 and D11,
logs 9 and 8): `reset`, in any mode, gives the snapshot elements their reset values, clears HALT and empties HIST.
That it emits nothing is the model's log 4, after the list of spec/60_exceptions.md section 6 (the spec's D29, log
25). -/
def Obligations.ResetCommandResetsEverything : Prop :=
  ∀ s : State, s.nextCommand = .reset →
    ∃ u, step s = .next u ∧ u.toSnapshot = Snapshot.reset s.cfg ∧ u.halt = none ∧ u.hist = [] ∧
      u.cfg = s.cfg ∧ u.events = []

/-- R63: byte k of the ROM is at 0x200 + k, and the first word fetched, in Running mode, is the big-endian word of
bytes 0 and 1. -/
def Obligations.LoadPlacesRom : Prop :=
  ∀ (s : State) (bytes : List Byte), s.nextCommand = .load bytes → bytes.length ≤ 3584 →
    ∃ u, step s = .next u ∧
      (∀ (k : Nat) (h : k < bytes.length), u.readByte (BitVec.ofNat 12 (0x200 + k)) = bytes[k]) ∧
      u.pc = 0x200 ∧ u.mode = .running ∧
      (∀ (hi lo : Byte) (more : List Byte), bytes = hi :: lo :: more → u.fetch = hi ++ lo)

/-- spec/70_reset_and_hazards.md section 1 (the reset values are the spec's D10 and D11, logs 9 and 8; the event its
D29, log 25): a load that succeeds resets the block first, so every byte outside the ROM and every other element of
the state has its reset value. -/
def Obligations.LoadResetsTheRest : Prop :=
  ∀ (s : State) (bytes : List Byte), s.nextCommand = .load bytes → bytes.length ≤ 3584 →
    ∃ u, step s = .next u ∧
      (∀ a : Addr, a.toNat < 0x200 ∨ 0x200 + bytes.length ≤ a.toNat → u.readByte a = resetByte s.cfg a.toNat) ∧
      (∃ mem, u.toSnapshot = { Snapshot.reset s.cfg with mem := mem }) ∧ u.halt = none ∧ u.hist = [] ∧
      u.cfg = s.cfg ∧ u.events = [.stateChanged] ∧ u.result = some .ok

/-- spec/70_reset_and_hazards.md section 1 and spec/60_exceptions.md section 1 (what is left behind is the spec's D26,
the code 4 and the recorded length its D23): a
ROM longer than 3584 bytes is rejected: HALT becomes code 4 with the length, `fatal` is emitted, and the snapshot
elements and the history stay; a ROM of at most 3584 bytes is not. -/
def Obligations.LoadRejectsLongRom : Prop :=
  (∀ (s : State) (bytes : List Byte), s.nextCommand = .load bytes → 3584 < bytes.length →
    ∃ u, step s = .next u ∧ u.halt = some (.invalidProgramLoad bytes.length) ∧ u.haltCode = 4 ∧
      u.toSnapshot = s.toSnapshot ∧ u.hist = s.hist ∧ u.events = [.fatal (.invalidProgramLoad bytes.length)] ∧
      u.result = some .invalidProgramLoad) ∧
  (∀ (s u : State) (bytes : List Byte), s.nextCommand = .load bytes → step s = .next u →
    (u.result = some .invalidProgramLoad ↔ 3584 < bytes.length))

/-- Vector T167 of spec/95_test_vectors.md (the zero memory is the spec's D10, log 9; the illegal word 0x0000 its D8,
log 14; PC = 0x202 after the error its D21, log 21; the code 1 with the word and its address its D23, log 22): the
first step after reset with no program loaded halts the block with DecodeError, whatever its inputs. -/
def Obligations.FirstStepAfterResetHalts : Prop :=
  ∃ u, step State.reset = .next u ∧ u.halt = some (.decodeError 0x0000 0x200) ∧ u.haltCode = 1 ∧
    u.pc = 0x202 ∧ u.hist = [] ∧ u.result = some (.fatal .decodeError)
end

