-- ==== Sys2Proof/Laws/Memory.lean ====
section
/-! SUPPORT. The laws of memory: a read after a write to the same address gives the value written, a write
leaves every other address alone, and every write keeps the canonical form. -/

namespace Sys2Proof.Machine

variable (c : Config) (m : Memory) (a b : Nat) (v : Byte)

theorem Memory.read_insert_same (h : ∀ q ∈ m, q.1 ≠ a) : (Memory.insert m (a, v)).read c a = v := by
  induction m with
  | nil => simp [Memory.insert, Memory.read]
  | cons q m ih =>
    have hq : q.1 ≠ a := h q (by simp)
    have hm : ∀ q ∈ m, q.1 ≠ a := fun p hp => h p (by simp [hp])
    by_cases hlt : a < q.1
    · simp [Memory.insert, Memory.read, hlt]
    · simp [Memory.insert, Memory.read, hlt, hq, ih hm]

theorem Memory.read_insert_other (h : a ≠ b) : (Memory.insert m (a, v)).read c b = m.read c b := by
  induction m with
  | nil => simp [Memory.insert, Memory.read, h]
  | cons q m ih =>
    by_cases hlt : a < q.1
    · simp [Memory.insert, Memory.read, hlt, h]
    · simp [Memory.insert, Memory.read, hlt, ih]

theorem Memory.mem_without (q : Host.Cell) : q ∈ m.without a ↔ q ∈ m ∧ q.1 ≠ a := by
  simp [Memory.without]

theorem Memory.without_cons (q : Host.Cell) :
    Memory.without (q :: m) a = if q.1 = a then m.without a else q :: m.without a := by
  by_cases h : q.1 = a <;> simp [Memory.without, h]

theorem Memory.read_without_same : (m.without a).read c a = resetByte c a := by
  induction m with
  | nil => rfl
  | cons q m ih =>
    rw [Memory.without_cons]
    by_cases hq : q.1 = a
    · simpa [hq] using ih
    · simpa [hq, Memory.read] using ih

theorem Memory.read_without_other (h : a ≠ b) : (m.without a).read c b = m.read c b := by
  induction m with
  | nil => rfl
  | cons q m ih =>
    rw [Memory.without_cons]
    by_cases hq : q.1 = a
    · have hne : q.1 ≠ b := by omega
      simpa [hq, Memory.read, h] using ih
    · simp [hq, Memory.read, ih]

/-- `MEM[a] <- v` makes `MEM[a]` v. -/
theorem Memory.read_write_same : (m.write c a v).read c a = v := by
  by_cases hv : v = resetByte c a
  · simpa [Memory.write, hv] using Memory.read_without_same c m a
  · simpa [Memory.write, hv] using
      Memory.read_insert_same c _ a v fun q hq => ((Memory.mem_without m a q).mp hq).2

/-- `MEM[a] <- v` leaves every other address alone. -/
theorem Memory.read_write_other (h : a ≠ b) : (m.write c a v).read c b = m.read c b := by
  by_cases hv : v = resetByte c a
  · simpa [Memory.write, hv] using Memory.read_without_other c m a b h
  · simpa [Memory.write, hv, Memory.read_insert_other c _ a b v h] using
      Memory.read_without_other c m a b h

/-! ### The canonical form -/

/-- The canonical form as a fact about the cells. -/
theorem Memory.wf_iff : m.wf c = true ↔
    m.Pairwise (fun p q => p.1 < q.1) ∧ ∀ q ∈ m, q.1 < 4096 ∧ q.2 ≠ resetByte c q.1 := by
  induction m with
  | nil => simp [Memory.wf]
  | cons q m ih =>
    simp only [Memory.wf, Bool.and_eq_true, decide_eq_true_eq, bne_iff_ne, List.all_eq_true, ih,
      List.pairwise_cons, List.mem_cons, forall_eq_or_imp]
    tauto

theorem Memory.mem_insert (p q : Host.Cell) : q ∈ Memory.insert m p ↔ q = p ∨ q ∈ m := by
  induction m with
  | nil => simp [Memory.insert]
  | cons r m ih =>
    by_cases h : p.1 < r.1
    · simp [Memory.insert, h]
    · simp only [Memory.insert, h, if_false, List.mem_cons, ih]
      tauto

theorem Memory.pairwise_insert (p : Host.Cell) (hm : m.Pairwise fun p q => p.1 < q.1)
    (hp : ∀ q ∈ m, q.1 ≠ p.1) : (m.insert p).Pairwise fun p q => p.1 < q.1 := by
  induction m with
  | nil => simp [Memory.insert]
  | cons r m ih =>
    obtain ⟨hr, hm⟩ := List.pairwise_cons.mp hm
    have hpr : r.1 ≠ p.1 := hp r (by simp)
    by_cases h : p.1 < r.1
    · rw [Memory.insert, if_pos h]
      simp only [List.pairwise_cons, List.mem_cons, forall_eq_or_imp]
      exact ⟨⟨h, fun q hq => lt_trans h (hr q hq)⟩, hr, hm⟩
    · simp only [Memory.insert, h, if_false, List.pairwise_cons, Memory.mem_insert, forall_eq_or_imp]
      exact ⟨⟨by omega, hr⟩, ih hm fun q hq => hp q (by simp [hq])⟩

/-- Every write to an address of the space keeps the canonical form. -/
theorem Memory.wf_write (ha : a < 4096) (h : m.wf c = true) : (m.write c a v).wf c = true := by
  obtain ⟨hp, hq⟩ := (Memory.wf_iff c m).mp h
  have hp' : (m.without a).Pairwise fun p q => p.1 < q.1 := hp.filter _
  have hq' : ∀ q ∈ m.without a, q.1 < 4096 ∧ q.2 ≠ resetByte c q.1 :=
    fun q hm => hq q ((Memory.mem_without m a q).mp hm).1
  have hne : ∀ q ∈ m.without a, q.1 ≠ a := fun q hm => ((Memory.mem_without m a q).mp hm).2
  by_cases hv : v = resetByte c a
  · simpa [Memory.write, hv] using (Memory.wf_iff c _).mpr ⟨hp', hq'⟩
  · simp only [Memory.write, hv, if_false]
    refine (Memory.wf_iff c _).mpr ⟨Memory.pairwise_insert _ _ hp' hne, fun q hm => ?_⟩
    rcases (Memory.mem_insert _ _ _).mp hm with rfl | hm
    · exact ⟨ha, hv⟩
    · exact hq' q hm

/-- The empty list, State.reset's memory, is canonical and reads as the reset contents. -/
theorem Memory.wf_nil : Memory.wf c [] = true := rfl

/-- An address with no cell reads as its reset contents. -/
theorem Memory.read_eq_resetByte (h : ∀ q ∈ m, q.1 ≠ a) : m.read c a = resetByte c a := by
  induction m with
  | nil => rfl
  | cons q m ih =>
    have hq : q.1 ≠ a := h q (by simp)
    simpa [Memory.read, hq] using ih fun p hp => h p (by simp [hp])

end Sys2Proof.Machine
end

