-- ==== Sys2Proof/Laws/State.lean ====
section
/-! SUPPORT. What each update of the state leaves in each field: one lemma per field per update, true by rfl,
then the same for the reads `getV`, `readByte`, `cell`, `stackAt`. No later proof unfolds a record update. -/

namespace Sys2Proof.Machine

variable (s : State)

/-! ### `setV` -/

@[simp] theorem State.setV_mem (r : Reg) (b : Byte) : (s.setV r b).mem = s.mem := rfl
@[simp] theorem State.setV_v (r : Reg) (b : Byte) : (s.setV r b).v = s.v.set r.toNat b r.isLt := rfl
@[simp] theorem State.setV_i (r : Reg) (b : Byte) : (s.setV r b).i = s.i := rfl
@[simp] theorem State.setV_pc (r : Reg) (b : Byte) : (s.setV r b).pc = s.pc := rfl
@[simp] theorem State.setV_stack (r : Reg) (b : Byte) : (s.setV r b).stack = s.stack := rfl
@[simp] theorem State.setV_sp (r : Reg) (b : Byte) : (s.setV r b).sp = s.sp := rfl
@[simp] theorem State.setV_fb (r : Reg) (b : Byte) : (s.setV r b).fb = s.fb := rfl
@[simp] theorem State.setV_dt (r : Reg) (b : Byte) : (s.setV r b).dt = s.dt := rfl
@[simp] theorem State.setV_st (r : Reg) (b : Byte) : (s.setV r b).st = s.st := rfl
@[simp] theorem State.setV_kw (r : Reg) (b : Byte) : (s.setV r b).kw = s.kw := rfl
@[simp] theorem State.setV_halt (r : Reg) (b : Byte) : (s.setV r b).halt = s.halt := rfl
@[simp] theorem State.setV_hist (r : Reg) (b : Byte) : (s.setV r b).hist = s.hist := rfl
@[simp] theorem State.setV_cfg (r : Reg) (b : Byte) : (s.setV r b).cfg = s.cfg := rfl
@[simp] theorem State.setV_keys (r : Reg) (b : Byte) : (s.setV r b).keys = s.keys := rfl
@[simp] theorem State.setV_rnd (r : Reg) (b : Byte) : (s.setV r b).rnd = s.rnd := rfl
@[simp] theorem State.setV_draws (r : Reg) (b : Byte) : (s.setV r b).draws = s.draws := rfl
@[simp] theorem State.setV_host (r : Reg) (b : Byte) : (s.setV r b).host = s.host := rfl
@[simp] theorem State.setV_events (r : Reg) (b : Byte) : (s.setV r b).events = s.events := rfl
@[simp] theorem State.setV_result (r : Reg) (b : Byte) : (s.setV r b).result = s.result := rfl
@[simp] theorem State.setV_readByte (r : Reg) (b : Byte) (c : Addr) : (s.setV r b).readByte c = s.readByte c := rfl
@[simp] theorem State.setV_cell (r : Reg) (b : Byte) (row : Fin 32) (col : Fin 64) : (s.setV r b).cell row col = s.cell row col := rfl
@[simp] theorem State.setV_stackAt (r : Reg) (b : Byte) (j : BitVec 5) : (s.setV r b).stackAt j = s.stackAt j := rfl

/-! ### `setI` -/

@[simp] theorem State.setI_mem (w : Word) : (s.setI w).mem = s.mem := rfl
@[simp] theorem State.setI_v (w : Word) : (s.setI w).v = s.v := rfl
@[simp] theorem State.setI_i (w : Word) : (s.setI w).i = w := rfl
@[simp] theorem State.setI_pc (w : Word) : (s.setI w).pc = s.pc := rfl
@[simp] theorem State.setI_stack (w : Word) : (s.setI w).stack = s.stack := rfl
@[simp] theorem State.setI_sp (w : Word) : (s.setI w).sp = s.sp := rfl
@[simp] theorem State.setI_fb (w : Word) : (s.setI w).fb = s.fb := rfl
@[simp] theorem State.setI_dt (w : Word) : (s.setI w).dt = s.dt := rfl
@[simp] theorem State.setI_st (w : Word) : (s.setI w).st = s.st := rfl
@[simp] theorem State.setI_kw (w : Word) : (s.setI w).kw = s.kw := rfl
@[simp] theorem State.setI_halt (w : Word) : (s.setI w).halt = s.halt := rfl
@[simp] theorem State.setI_hist (w : Word) : (s.setI w).hist = s.hist := rfl
@[simp] theorem State.setI_cfg (w : Word) : (s.setI w).cfg = s.cfg := rfl
@[simp] theorem State.setI_keys (w : Word) : (s.setI w).keys = s.keys := rfl
@[simp] theorem State.setI_rnd (w : Word) : (s.setI w).rnd = s.rnd := rfl
@[simp] theorem State.setI_draws (w : Word) : (s.setI w).draws = s.draws := rfl
@[simp] theorem State.setI_host (w : Word) : (s.setI w).host = s.host := rfl
@[simp] theorem State.setI_events (w : Word) : (s.setI w).events = s.events := rfl
@[simp] theorem State.setI_result (w : Word) : (s.setI w).result = s.result := rfl
@[simp] theorem State.setI_getV (w : Word) (q : Reg) : (s.setI w).getV q = s.getV q := rfl
@[simp] theorem State.setI_readByte (w : Word) (c : Addr) : (s.setI w).readByte c = s.readByte c := rfl
@[simp] theorem State.setI_cell (w : Word) (row : Fin 32) (col : Fin 64) : (s.setI w).cell row col = s.cell row col := rfl
@[simp] theorem State.setI_stackAt (w : Word) (j : BitVec 5) : (s.setI w).stackAt j = s.stackAt j := rfl

/-! ### `setPc` -/

@[simp] theorem State.setPc_mem (a : Addr) : (s.setPc a).mem = s.mem := rfl
@[simp] theorem State.setPc_v (a : Addr) : (s.setPc a).v = s.v := rfl
@[simp] theorem State.setPc_i (a : Addr) : (s.setPc a).i = s.i := rfl
@[simp] theorem State.setPc_pc (a : Addr) : (s.setPc a).pc = a := rfl
@[simp] theorem State.setPc_stack (a : Addr) : (s.setPc a).stack = s.stack := rfl
@[simp] theorem State.setPc_sp (a : Addr) : (s.setPc a).sp = s.sp := rfl
@[simp] theorem State.setPc_fb (a : Addr) : (s.setPc a).fb = s.fb := rfl
@[simp] theorem State.setPc_dt (a : Addr) : (s.setPc a).dt = s.dt := rfl
@[simp] theorem State.setPc_st (a : Addr) : (s.setPc a).st = s.st := rfl
@[simp] theorem State.setPc_kw (a : Addr) : (s.setPc a).kw = s.kw := rfl
@[simp] theorem State.setPc_halt (a : Addr) : (s.setPc a).halt = s.halt := rfl
@[simp] theorem State.setPc_hist (a : Addr) : (s.setPc a).hist = s.hist := rfl
@[simp] theorem State.setPc_cfg (a : Addr) : (s.setPc a).cfg = s.cfg := rfl
@[simp] theorem State.setPc_keys (a : Addr) : (s.setPc a).keys = s.keys := rfl
@[simp] theorem State.setPc_rnd (a : Addr) : (s.setPc a).rnd = s.rnd := rfl
@[simp] theorem State.setPc_draws (a : Addr) : (s.setPc a).draws = s.draws := rfl
@[simp] theorem State.setPc_host (a : Addr) : (s.setPc a).host = s.host := rfl
@[simp] theorem State.setPc_events (a : Addr) : (s.setPc a).events = s.events := rfl
@[simp] theorem State.setPc_result (a : Addr) : (s.setPc a).result = s.result := rfl
@[simp] theorem State.setPc_getV (a : Addr) (q : Reg) : (s.setPc a).getV q = s.getV q := rfl
@[simp] theorem State.setPc_readByte (a : Addr) (c : Addr) : (s.setPc a).readByte c = s.readByte c := rfl
@[simp] theorem State.setPc_cell (a : Addr) (row : Fin 32) (col : Fin 64) : (s.setPc a).cell row col = s.cell row col := rfl
@[simp] theorem State.setPc_stackAt (a : Addr) (j : BitVec 5) : (s.setPc a).stackAt j = s.stackAt j := rfl

/-! ### `advance` -/

@[simp] theorem State.advance_mem : (s.advance).mem = s.mem := rfl
@[simp] theorem State.advance_v : (s.advance).v = s.v := rfl
@[simp] theorem State.advance_i : (s.advance).i = s.i := rfl
@[simp] theorem State.advance_pc : (s.advance).pc = s.pc + 2 := rfl
@[simp] theorem State.advance_stack : (s.advance).stack = s.stack := rfl
@[simp] theorem State.advance_sp : (s.advance).sp = s.sp := rfl
@[simp] theorem State.advance_fb : (s.advance).fb = s.fb := rfl
@[simp] theorem State.advance_dt : (s.advance).dt = s.dt := rfl
@[simp] theorem State.advance_st : (s.advance).st = s.st := rfl
@[simp] theorem State.advance_kw : (s.advance).kw = s.kw := rfl
@[simp] theorem State.advance_halt : (s.advance).halt = s.halt := rfl
@[simp] theorem State.advance_hist : (s.advance).hist = s.hist := rfl
@[simp] theorem State.advance_cfg : (s.advance).cfg = s.cfg := rfl
@[simp] theorem State.advance_keys : (s.advance).keys = s.keys := rfl
@[simp] theorem State.advance_rnd : (s.advance).rnd = s.rnd := rfl
@[simp] theorem State.advance_draws : (s.advance).draws = s.draws := rfl
@[simp] theorem State.advance_host : (s.advance).host = s.host := rfl
@[simp] theorem State.advance_events : (s.advance).events = s.events := rfl
@[simp] theorem State.advance_result : (s.advance).result = s.result := rfl
@[simp] theorem State.advance_getV (q : Reg) : (s.advance).getV q = s.getV q := rfl
@[simp] theorem State.advance_readByte (c : Addr) : (s.advance).readByte c = s.readByte c := rfl
@[simp] theorem State.advance_cell (row : Fin 32) (col : Fin 64) : (s.advance).cell row col = s.cell row col := rfl
@[simp] theorem State.advance_stackAt (j : BitVec 5) : (s.advance).stackAt j = s.stackAt j := rfl

/-! ### `writeByte` -/

@[simp] theorem State.writeByte_mem (a : Addr) (b : Byte) : (s.writeByte a b).mem = s.mem.write s.cfg a.toNat b := rfl
@[simp] theorem State.writeByte_v (a : Addr) (b : Byte) : (s.writeByte a b).v = s.v := rfl
@[simp] theorem State.writeByte_i (a : Addr) (b : Byte) : (s.writeByte a b).i = s.i := rfl
@[simp] theorem State.writeByte_pc (a : Addr) (b : Byte) : (s.writeByte a b).pc = s.pc := rfl
@[simp] theorem State.writeByte_stack (a : Addr) (b : Byte) : (s.writeByte a b).stack = s.stack := rfl
@[simp] theorem State.writeByte_sp (a : Addr) (b : Byte) : (s.writeByte a b).sp = s.sp := rfl
@[simp] theorem State.writeByte_fb (a : Addr) (b : Byte) : (s.writeByte a b).fb = s.fb := rfl
@[simp] theorem State.writeByte_dt (a : Addr) (b : Byte) : (s.writeByte a b).dt = s.dt := rfl
@[simp] theorem State.writeByte_st (a : Addr) (b : Byte) : (s.writeByte a b).st = s.st := rfl
@[simp] theorem State.writeByte_kw (a : Addr) (b : Byte) : (s.writeByte a b).kw = s.kw := rfl
@[simp] theorem State.writeByte_halt (a : Addr) (b : Byte) : (s.writeByte a b).halt = s.halt := rfl
@[simp] theorem State.writeByte_hist (a : Addr) (b : Byte) : (s.writeByte a b).hist = s.hist := rfl
@[simp] theorem State.writeByte_cfg (a : Addr) (b : Byte) : (s.writeByte a b).cfg = s.cfg := rfl
@[simp] theorem State.writeByte_keys (a : Addr) (b : Byte) : (s.writeByte a b).keys = s.keys := rfl
@[simp] theorem State.writeByte_rnd (a : Addr) (b : Byte) : (s.writeByte a b).rnd = s.rnd := rfl
@[simp] theorem State.writeByte_draws (a : Addr) (b : Byte) : (s.writeByte a b).draws = s.draws := rfl
@[simp] theorem State.writeByte_host (a : Addr) (b : Byte) : (s.writeByte a b).host = s.host := rfl
@[simp] theorem State.writeByte_events (a : Addr) (b : Byte) : (s.writeByte a b).events = s.events := rfl
@[simp] theorem State.writeByte_result (a : Addr) (b : Byte) : (s.writeByte a b).result = s.result := rfl
@[simp] theorem State.writeByte_getV (a : Addr) (b : Byte) (q : Reg) : (s.writeByte a b).getV q = s.getV q := rfl
@[simp] theorem State.writeByte_cell (a : Addr) (b : Byte) (row : Fin 32) (col : Fin 64) : (s.writeByte a b).cell row col = s.cell row col := rfl
@[simp] theorem State.writeByte_stackAt (a : Addr) (b : Byte) (j : BitVec 5) : (s.writeByte a b).stackAt j = s.stackAt j := rfl

/-! ### `pushStack` -/

@[simp] theorem State.pushStack_mem (a : Addr) : (s.pushStack a).mem = s.mem := rfl
@[simp] theorem State.pushStack_v (a : Addr) : (s.pushStack a).v = s.v := rfl
@[simp] theorem State.pushStack_i (a : Addr) : (s.pushStack a).i = s.i := rfl
@[simp] theorem State.pushStack_pc (a : Addr) : (s.pushStack a).pc = s.pc := rfl
@[simp] theorem State.pushStack_stack (a : Addr) : (s.pushStack a).stack = s.stack.set s.sp.toNat a := rfl
@[simp] theorem State.pushStack_sp (a : Addr) : (s.pushStack a).sp = s.sp + 1 := rfl
@[simp] theorem State.pushStack_fb (a : Addr) : (s.pushStack a).fb = s.fb := rfl
@[simp] theorem State.pushStack_dt (a : Addr) : (s.pushStack a).dt = s.dt := rfl
@[simp] theorem State.pushStack_st (a : Addr) : (s.pushStack a).st = s.st := rfl
@[simp] theorem State.pushStack_kw (a : Addr) : (s.pushStack a).kw = s.kw := rfl
@[simp] theorem State.pushStack_halt (a : Addr) : (s.pushStack a).halt = s.halt := rfl
@[simp] theorem State.pushStack_hist (a : Addr) : (s.pushStack a).hist = s.hist := rfl
@[simp] theorem State.pushStack_cfg (a : Addr) : (s.pushStack a).cfg = s.cfg := rfl
@[simp] theorem State.pushStack_keys (a : Addr) : (s.pushStack a).keys = s.keys := rfl
@[simp] theorem State.pushStack_rnd (a : Addr) : (s.pushStack a).rnd = s.rnd := rfl
@[simp] theorem State.pushStack_draws (a : Addr) : (s.pushStack a).draws = s.draws := rfl
@[simp] theorem State.pushStack_host (a : Addr) : (s.pushStack a).host = s.host := rfl
@[simp] theorem State.pushStack_events (a : Addr) : (s.pushStack a).events = s.events := rfl
@[simp] theorem State.pushStack_result (a : Addr) : (s.pushStack a).result = s.result := rfl
@[simp] theorem State.pushStack_getV (a : Addr) (q : Reg) : (s.pushStack a).getV q = s.getV q := rfl
@[simp] theorem State.pushStack_readByte (a : Addr) (c : Addr) : (s.pushStack a).readByte c = s.readByte c := rfl
@[simp] theorem State.pushStack_cell (a : Addr) (row : Fin 32) (col : Fin 64) : (s.pushStack a).cell row col = s.cell row col := rfl

/-! ### `popStack` -/

@[simp] theorem State.popStack_mem : (s.popStack).mem = s.mem := rfl
@[simp] theorem State.popStack_v : (s.popStack).v = s.v := rfl
@[simp] theorem State.popStack_i : (s.popStack).i = s.i := rfl
@[simp] theorem State.popStack_pc : (s.popStack).pc = s.stackAt (s.sp - 1) := rfl
@[simp] theorem State.popStack_stack : (s.popStack).stack = s.stack := rfl
@[simp] theorem State.popStack_sp : (s.popStack).sp = s.sp - 1 := rfl
@[simp] theorem State.popStack_fb : (s.popStack).fb = s.fb := rfl
@[simp] theorem State.popStack_dt : (s.popStack).dt = s.dt := rfl
@[simp] theorem State.popStack_st : (s.popStack).st = s.st := rfl
@[simp] theorem State.popStack_kw : (s.popStack).kw = s.kw := rfl
@[simp] theorem State.popStack_halt : (s.popStack).halt = s.halt := rfl
@[simp] theorem State.popStack_hist : (s.popStack).hist = s.hist := rfl
@[simp] theorem State.popStack_cfg : (s.popStack).cfg = s.cfg := rfl
@[simp] theorem State.popStack_keys : (s.popStack).keys = s.keys := rfl
@[simp] theorem State.popStack_rnd : (s.popStack).rnd = s.rnd := rfl
@[simp] theorem State.popStack_draws : (s.popStack).draws = s.draws := rfl
@[simp] theorem State.popStack_host : (s.popStack).host = s.host := rfl
@[simp] theorem State.popStack_events : (s.popStack).events = s.events := rfl
@[simp] theorem State.popStack_result : (s.popStack).result = s.result := rfl
@[simp] theorem State.popStack_getV (q : Reg) : (s.popStack).getV q = s.getV q := rfl
@[simp] theorem State.popStack_readByte (c : Addr) : (s.popStack).readByte c = s.readByte c := rfl
@[simp] theorem State.popStack_cell (row : Fin 32) (col : Fin 64) : (s.popStack).cell row col = s.cell row col := rfl
@[simp] theorem State.popStack_stackAt (j : BitVec 5) : (s.popStack).stackAt j = s.stackAt j := rfl

/-! ### `setFb` -/

@[simp] theorem State.setFb_mem (f : Framebuffer) : (s.setFb f).mem = s.mem := rfl
@[simp] theorem State.setFb_v (f : Framebuffer) : (s.setFb f).v = s.v := rfl
@[simp] theorem State.setFb_i (f : Framebuffer) : (s.setFb f).i = s.i := rfl
@[simp] theorem State.setFb_pc (f : Framebuffer) : (s.setFb f).pc = s.pc := rfl
@[simp] theorem State.setFb_stack (f : Framebuffer) : (s.setFb f).stack = s.stack := rfl
@[simp] theorem State.setFb_sp (f : Framebuffer) : (s.setFb f).sp = s.sp := rfl
@[simp] theorem State.setFb_fb (f : Framebuffer) : (s.setFb f).fb = f := rfl
@[simp] theorem State.setFb_dt (f : Framebuffer) : (s.setFb f).dt = s.dt := rfl
@[simp] theorem State.setFb_st (f : Framebuffer) : (s.setFb f).st = s.st := rfl
@[simp] theorem State.setFb_kw (f : Framebuffer) : (s.setFb f).kw = s.kw := rfl
@[simp] theorem State.setFb_halt (f : Framebuffer) : (s.setFb f).halt = s.halt := rfl
@[simp] theorem State.setFb_hist (f : Framebuffer) : (s.setFb f).hist = s.hist := rfl
@[simp] theorem State.setFb_cfg (f : Framebuffer) : (s.setFb f).cfg = s.cfg := rfl
@[simp] theorem State.setFb_keys (f : Framebuffer) : (s.setFb f).keys = s.keys := rfl
@[simp] theorem State.setFb_rnd (f : Framebuffer) : (s.setFb f).rnd = s.rnd := rfl
@[simp] theorem State.setFb_draws (f : Framebuffer) : (s.setFb f).draws = s.draws := rfl
@[simp] theorem State.setFb_host (f : Framebuffer) : (s.setFb f).host = s.host := rfl
@[simp] theorem State.setFb_events (f : Framebuffer) : (s.setFb f).events = s.events := rfl
@[simp] theorem State.setFb_result (f : Framebuffer) : (s.setFb f).result = s.result := rfl
@[simp] theorem State.setFb_getV (f : Framebuffer) (q : Reg) : (s.setFb f).getV q = s.getV q := rfl
@[simp] theorem State.setFb_readByte (f : Framebuffer) (c : Addr) : (s.setFb f).readByte c = s.readByte c := rfl
@[simp] theorem State.setFb_stackAt (f : Framebuffer) (j : BitVec 5) : (s.setFb f).stackAt j = s.stackAt j := rfl

/-! ### `setDt` -/

@[simp] theorem State.setDt_mem (b : Byte) : (s.setDt b).mem = s.mem := rfl
@[simp] theorem State.setDt_v (b : Byte) : (s.setDt b).v = s.v := rfl
@[simp] theorem State.setDt_i (b : Byte) : (s.setDt b).i = s.i := rfl
@[simp] theorem State.setDt_pc (b : Byte) : (s.setDt b).pc = s.pc := rfl
@[simp] theorem State.setDt_stack (b : Byte) : (s.setDt b).stack = s.stack := rfl
@[simp] theorem State.setDt_sp (b : Byte) : (s.setDt b).sp = s.sp := rfl
@[simp] theorem State.setDt_fb (b : Byte) : (s.setDt b).fb = s.fb := rfl
@[simp] theorem State.setDt_dt (b : Byte) : (s.setDt b).dt = b := rfl
@[simp] theorem State.setDt_st (b : Byte) : (s.setDt b).st = s.st := rfl
@[simp] theorem State.setDt_kw (b : Byte) : (s.setDt b).kw = s.kw := rfl
@[simp] theorem State.setDt_halt (b : Byte) : (s.setDt b).halt = s.halt := rfl
@[simp] theorem State.setDt_hist (b : Byte) : (s.setDt b).hist = s.hist := rfl
@[simp] theorem State.setDt_cfg (b : Byte) : (s.setDt b).cfg = s.cfg := rfl
@[simp] theorem State.setDt_keys (b : Byte) : (s.setDt b).keys = s.keys := rfl
@[simp] theorem State.setDt_rnd (b : Byte) : (s.setDt b).rnd = s.rnd := rfl
@[simp] theorem State.setDt_draws (b : Byte) : (s.setDt b).draws = s.draws := rfl
@[simp] theorem State.setDt_host (b : Byte) : (s.setDt b).host = s.host := rfl
@[simp] theorem State.setDt_events (b : Byte) : (s.setDt b).events = s.events := rfl
@[simp] theorem State.setDt_result (b : Byte) : (s.setDt b).result = s.result := rfl
@[simp] theorem State.setDt_getV (b : Byte) (q : Reg) : (s.setDt b).getV q = s.getV q := rfl
@[simp] theorem State.setDt_readByte (b : Byte) (c : Addr) : (s.setDt b).readByte c = s.readByte c := rfl
@[simp] theorem State.setDt_cell (b : Byte) (row : Fin 32) (col : Fin 64) : (s.setDt b).cell row col = s.cell row col := rfl
@[simp] theorem State.setDt_stackAt (b : Byte) (j : BitVec 5) : (s.setDt b).stackAt j = s.stackAt j := rfl

/-! ### `setSt` -/

@[simp] theorem State.setSt_mem (b : Byte) : (s.setSt b).mem = s.mem := rfl
@[simp] theorem State.setSt_v (b : Byte) : (s.setSt b).v = s.v := rfl
@[simp] theorem State.setSt_i (b : Byte) : (s.setSt b).i = s.i := rfl
@[simp] theorem State.setSt_pc (b : Byte) : (s.setSt b).pc = s.pc := rfl
@[simp] theorem State.setSt_stack (b : Byte) : (s.setSt b).stack = s.stack := rfl
@[simp] theorem State.setSt_sp (b : Byte) : (s.setSt b).sp = s.sp := rfl
@[simp] theorem State.setSt_fb (b : Byte) : (s.setSt b).fb = s.fb := rfl
@[simp] theorem State.setSt_dt (b : Byte) : (s.setSt b).dt = s.dt := rfl
@[simp] theorem State.setSt_st (b : Byte) : (s.setSt b).st = b := rfl
@[simp] theorem State.setSt_kw (b : Byte) : (s.setSt b).kw = s.kw := rfl
@[simp] theorem State.setSt_halt (b : Byte) : (s.setSt b).halt = s.halt := rfl
@[simp] theorem State.setSt_hist (b : Byte) : (s.setSt b).hist = s.hist := rfl
@[simp] theorem State.setSt_cfg (b : Byte) : (s.setSt b).cfg = s.cfg := rfl
@[simp] theorem State.setSt_keys (b : Byte) : (s.setSt b).keys = s.keys := rfl
@[simp] theorem State.setSt_rnd (b : Byte) : (s.setSt b).rnd = s.rnd := rfl
@[simp] theorem State.setSt_draws (b : Byte) : (s.setSt b).draws = s.draws := rfl
@[simp] theorem State.setSt_host (b : Byte) : (s.setSt b).host = s.host := rfl
@[simp] theorem State.setSt_events (b : Byte) : (s.setSt b).events = s.events := rfl
@[simp] theorem State.setSt_result (b : Byte) : (s.setSt b).result = s.result := rfl
@[simp] theorem State.setSt_getV (b : Byte) (q : Reg) : (s.setSt b).getV q = s.getV q := rfl
@[simp] theorem State.setSt_readByte (b : Byte) (c : Addr) : (s.setSt b).readByte c = s.readByte c := rfl
@[simp] theorem State.setSt_cell (b : Byte) (row : Fin 32) (col : Fin 64) : (s.setSt b).cell row col = s.cell row col := rfl
@[simp] theorem State.setSt_stackAt (b : Byte) (j : BitVec 5) : (s.setSt b).stackAt j = s.stackAt j := rfl

/-! ### `setKw` -/

@[simp] theorem State.setKw_mem (k : Option Reg) : (s.setKw k).mem = s.mem := rfl
@[simp] theorem State.setKw_v (k : Option Reg) : (s.setKw k).v = s.v := rfl
@[simp] theorem State.setKw_i (k : Option Reg) : (s.setKw k).i = s.i := rfl
@[simp] theorem State.setKw_pc (k : Option Reg) : (s.setKw k).pc = s.pc := rfl
@[simp] theorem State.setKw_stack (k : Option Reg) : (s.setKw k).stack = s.stack := rfl
@[simp] theorem State.setKw_sp (k : Option Reg) : (s.setKw k).sp = s.sp := rfl
@[simp] theorem State.setKw_fb (k : Option Reg) : (s.setKw k).fb = s.fb := rfl
@[simp] theorem State.setKw_dt (k : Option Reg) : (s.setKw k).dt = s.dt := rfl
@[simp] theorem State.setKw_st (k : Option Reg) : (s.setKw k).st = s.st := rfl
@[simp] theorem State.setKw_kw (k : Option Reg) : (s.setKw k).kw = k := rfl
@[simp] theorem State.setKw_halt (k : Option Reg) : (s.setKw k).halt = s.halt := rfl
@[simp] theorem State.setKw_hist (k : Option Reg) : (s.setKw k).hist = s.hist := rfl
@[simp] theorem State.setKw_cfg (k : Option Reg) : (s.setKw k).cfg = s.cfg := rfl
@[simp] theorem State.setKw_keys (k : Option Reg) : (s.setKw k).keys = s.keys := rfl
@[simp] theorem State.setKw_rnd (k : Option Reg) : (s.setKw k).rnd = s.rnd := rfl
@[simp] theorem State.setKw_draws (k : Option Reg) : (s.setKw k).draws = s.draws := rfl
@[simp] theorem State.setKw_host (k : Option Reg) : (s.setKw k).host = s.host := rfl
@[simp] theorem State.setKw_events (k : Option Reg) : (s.setKw k).events = s.events := rfl
@[simp] theorem State.setKw_result (k : Option Reg) : (s.setKw k).result = s.result := rfl
@[simp] theorem State.setKw_getV (k : Option Reg) (q : Reg) : (s.setKw k).getV q = s.getV q := rfl
@[simp] theorem State.setKw_readByte (k : Option Reg) (c : Addr) : (s.setKw k).readByte c = s.readByte c := rfl
@[simp] theorem State.setKw_cell (k : Option Reg) (row : Fin 32) (col : Fin 64) : (s.setKw k).cell row col = s.cell row col := rfl
@[simp] theorem State.setKw_stackAt (k : Option Reg) (j : BitVec 5) : (s.setKw k).stackAt j = s.stackAt j := rfl

/-! ### `emit` -/

@[simp] theorem State.emit_mem (e : Event) : (s.emit e).mem = s.mem := rfl
@[simp] theorem State.emit_v (e : Event) : (s.emit e).v = s.v := rfl
@[simp] theorem State.emit_i (e : Event) : (s.emit e).i = s.i := rfl
@[simp] theorem State.emit_pc (e : Event) : (s.emit e).pc = s.pc := rfl
@[simp] theorem State.emit_stack (e : Event) : (s.emit e).stack = s.stack := rfl
@[simp] theorem State.emit_sp (e : Event) : (s.emit e).sp = s.sp := rfl
@[simp] theorem State.emit_fb (e : Event) : (s.emit e).fb = s.fb := rfl
@[simp] theorem State.emit_dt (e : Event) : (s.emit e).dt = s.dt := rfl
@[simp] theorem State.emit_st (e : Event) : (s.emit e).st = s.st := rfl
@[simp] theorem State.emit_kw (e : Event) : (s.emit e).kw = s.kw := rfl
@[simp] theorem State.emit_halt (e : Event) : (s.emit e).halt = s.halt := rfl
@[simp] theorem State.emit_hist (e : Event) : (s.emit e).hist = s.hist := rfl
@[simp] theorem State.emit_cfg (e : Event) : (s.emit e).cfg = s.cfg := rfl
@[simp] theorem State.emit_keys (e : Event) : (s.emit e).keys = s.keys := rfl
@[simp] theorem State.emit_rnd (e : Event) : (s.emit e).rnd = s.rnd := rfl
@[simp] theorem State.emit_draws (e : Event) : (s.emit e).draws = s.draws := rfl
@[simp] theorem State.emit_host (e : Event) : (s.emit e).host = s.host := rfl
@[simp] theorem State.emit_events (e : Event) : (s.emit e).events = s.events ++ [e] := rfl
@[simp] theorem State.emit_result (e : Event) : (s.emit e).result = s.result := rfl
@[simp] theorem State.emit_toSnapshot (e : Event) : (s.emit e).toSnapshot = s.toSnapshot := rfl
@[simp] theorem State.emit_getV (e : Event) (q : Reg) : (s.emit e).getV q = s.getV q := rfl
@[simp] theorem State.emit_readByte (e : Event) (c : Addr) : (s.emit e).readByte c = s.readByte c := rfl
@[simp] theorem State.emit_cell (e : Event) (row : Fin 32) (col : Fin 64) : (s.emit e).cell row col = s.cell row col := rfl
@[simp] theorem State.emit_stackAt (e : Event) (j : BitVec 5) : (s.emit e).stackAt j = s.stackAt j := rfl

/-! ### `answer` -/

@[simp] theorem State.answer_mem (r : Result) : (s.answer r).mem = s.mem := rfl
@[simp] theorem State.answer_v (r : Result) : (s.answer r).v = s.v := rfl
@[simp] theorem State.answer_i (r : Result) : (s.answer r).i = s.i := rfl
@[simp] theorem State.answer_pc (r : Result) : (s.answer r).pc = s.pc := rfl
@[simp] theorem State.answer_stack (r : Result) : (s.answer r).stack = s.stack := rfl
@[simp] theorem State.answer_sp (r : Result) : (s.answer r).sp = s.sp := rfl
@[simp] theorem State.answer_fb (r : Result) : (s.answer r).fb = s.fb := rfl
@[simp] theorem State.answer_dt (r : Result) : (s.answer r).dt = s.dt := rfl
@[simp] theorem State.answer_st (r : Result) : (s.answer r).st = s.st := rfl
@[simp] theorem State.answer_kw (r : Result) : (s.answer r).kw = s.kw := rfl
@[simp] theorem State.answer_halt (r : Result) : (s.answer r).halt = s.halt := rfl
@[simp] theorem State.answer_hist (r : Result) : (s.answer r).hist = s.hist := rfl
@[simp] theorem State.answer_cfg (r : Result) : (s.answer r).cfg = s.cfg := rfl
@[simp] theorem State.answer_keys (r : Result) : (s.answer r).keys = s.keys := rfl
@[simp] theorem State.answer_rnd (r : Result) : (s.answer r).rnd = s.rnd := rfl
@[simp] theorem State.answer_draws (r : Result) : (s.answer r).draws = s.draws := rfl
@[simp] theorem State.answer_host (r : Result) : (s.answer r).host = s.host := rfl
@[simp] theorem State.answer_events (r : Result) : (s.answer r).events = s.events := rfl
@[simp] theorem State.answer_result (r : Result) : (s.answer r).result = some r := rfl
@[simp] theorem State.answer_toSnapshot (r : Result) : (s.answer r).toSnapshot = s.toSnapshot := rfl
@[simp] theorem State.answer_getV (r : Result) (q : Reg) : (s.answer r).getV q = s.getV q := rfl
@[simp] theorem State.answer_readByte (r : Result) (c : Addr) : (s.answer r).readByte c = s.readByte c := rfl
@[simp] theorem State.answer_cell (r : Result) (row : Fin 32) (col : Fin 64) : (s.answer r).cell row col = s.cell row col := rfl
@[simp] theorem State.answer_stackAt (r : Result) (j : BitVec 5) : (s.answer r).stackAt j = s.stackAt j := rfl

/-! ### `beginCommand` -/

@[simp] theorem State.beginCommand_mem : (s.beginCommand).mem = s.mem := rfl
@[simp] theorem State.beginCommand_v : (s.beginCommand).v = s.v := rfl
@[simp] theorem State.beginCommand_i : (s.beginCommand).i = s.i := rfl
@[simp] theorem State.beginCommand_pc : (s.beginCommand).pc = s.pc := rfl
@[simp] theorem State.beginCommand_stack : (s.beginCommand).stack = s.stack := rfl
@[simp] theorem State.beginCommand_sp : (s.beginCommand).sp = s.sp := rfl
@[simp] theorem State.beginCommand_fb : (s.beginCommand).fb = s.fb := rfl
@[simp] theorem State.beginCommand_dt : (s.beginCommand).dt = s.dt := rfl
@[simp] theorem State.beginCommand_st : (s.beginCommand).st = s.st := rfl
@[simp] theorem State.beginCommand_kw : (s.beginCommand).kw = s.kw := rfl
@[simp] theorem State.beginCommand_halt : (s.beginCommand).halt = s.halt := rfl
@[simp] theorem State.beginCommand_hist : (s.beginCommand).hist = s.hist := rfl
@[simp] theorem State.beginCommand_cfg : (s.beginCommand).cfg = s.cfg := rfl
@[simp] theorem State.beginCommand_keys : (s.beginCommand).keys = s.keys := rfl
@[simp] theorem State.beginCommand_rnd : (s.beginCommand).rnd = s.rnd := rfl
@[simp] theorem State.beginCommand_draws : (s.beginCommand).draws = s.draws := rfl
@[simp] theorem State.beginCommand_host : (s.beginCommand).host = s.host := rfl
@[simp] theorem State.beginCommand_events : (s.beginCommand).events = [] := rfl
@[simp] theorem State.beginCommand_result : (s.beginCommand).result = none := rfl
@[simp] theorem State.beginCommand_toSnapshot : (s.beginCommand).toSnapshot = s.toSnapshot := rfl
@[simp] theorem State.beginCommand_getV (q : Reg) : (s.beginCommand).getV q = s.getV q := rfl
@[simp] theorem State.beginCommand_readByte (c : Addr) : (s.beginCommand).readByte c = s.readByte c := rfl
@[simp] theorem State.beginCommand_cell (row : Fin 32) (col : Fin 64) : (s.beginCommand).cell row col = s.cell row col := rfl
@[simp] theorem State.beginCommand_stackAt (j : BitVec 5) : (s.beginCommand).stackAt j = s.stackAt j := rfl

/-! ### `sample` -/

@[simp] theorem State.sample_mem (n : Input) : (s.sample n).mem = s.mem := rfl
@[simp] theorem State.sample_v (n : Input) : (s.sample n).v = s.v := rfl
@[simp] theorem State.sample_i (n : Input) : (s.sample n).i = s.i := rfl
@[simp] theorem State.sample_pc (n : Input) : (s.sample n).pc = s.pc := rfl
@[simp] theorem State.sample_stack (n : Input) : (s.sample n).stack = s.stack := rfl
@[simp] theorem State.sample_sp (n : Input) : (s.sample n).sp = s.sp := rfl
@[simp] theorem State.sample_fb (n : Input) : (s.sample n).fb = s.fb := rfl
@[simp] theorem State.sample_dt (n : Input) : (s.sample n).dt = s.dt := rfl
@[simp] theorem State.sample_st (n : Input) : (s.sample n).st = s.st := rfl
@[simp] theorem State.sample_kw (n : Input) : (s.sample n).kw = s.kw := rfl
@[simp] theorem State.sample_halt (n : Input) : (s.sample n).halt = s.halt := rfl
@[simp] theorem State.sample_hist (n : Input) : (s.sample n).hist = s.hist := rfl
@[simp] theorem State.sample_cfg (n : Input) : (s.sample n).cfg = s.cfg := rfl
@[simp] theorem State.sample_keys (n : Input) : (s.sample n).keys = n.keys := rfl
@[simp] theorem State.sample_rnd (n : Input) : (s.sample n).rnd = n.rnd := rfl
@[simp] theorem State.sample_draws (n : Input) : (s.sample n).draws = s.draws := rfl
@[simp] theorem State.sample_host (n : Input) : (s.sample n).host = s.host := rfl
@[simp] theorem State.sample_events (n : Input) : (s.sample n).events = s.events := rfl
@[simp] theorem State.sample_result (n : Input) : (s.sample n).result = s.result := rfl
@[simp] theorem State.sample_toSnapshot (n : Input) : (s.sample n).toSnapshot = s.toSnapshot := rfl
@[simp] theorem State.sample_getV (n : Input) (q : Reg) : (s.sample n).getV q = s.getV q := rfl
@[simp] theorem State.sample_readByte (n : Input) (c : Addr) : (s.sample n).readByte c = s.readByte c := rfl
@[simp] theorem State.sample_cell (n : Input) (row : Fin 32) (col : Fin 64) : (s.sample n).cell row col = s.cell row col := rfl
@[simp] theorem State.sample_stackAt (n : Input) (j : BitVec 5) : (s.sample n).stackAt j = s.stackAt j := rfl

/-! ### `raise` -/

@[simp] theorem State.raise_mem (h : Halt) : (s.raise h).mem = s.mem := rfl
@[simp] theorem State.raise_v (h : Halt) : (s.raise h).v = s.v := rfl
@[simp] theorem State.raise_i (h : Halt) : (s.raise h).i = s.i := rfl
@[simp] theorem State.raise_pc (h : Halt) : (s.raise h).pc = s.pc := rfl
@[simp] theorem State.raise_stack (h : Halt) : (s.raise h).stack = s.stack := rfl
@[simp] theorem State.raise_sp (h : Halt) : (s.raise h).sp = s.sp := rfl
@[simp] theorem State.raise_fb (h : Halt) : (s.raise h).fb = s.fb := rfl
@[simp] theorem State.raise_dt (h : Halt) : (s.raise h).dt = s.dt := rfl
@[simp] theorem State.raise_st (h : Halt) : (s.raise h).st = s.st := rfl
@[simp] theorem State.raise_kw (h : Halt) : (s.raise h).kw = s.kw := rfl
@[simp] theorem State.raise_halt (h : Halt) : (s.raise h).halt = some h := rfl
@[simp] theorem State.raise_hist (h : Halt) : (s.raise h).hist = s.hist := rfl
@[simp] theorem State.raise_cfg (h : Halt) : (s.raise h).cfg = s.cfg := rfl
@[simp] theorem State.raise_keys (h : Halt) : (s.raise h).keys = s.keys := rfl
@[simp] theorem State.raise_rnd (h : Halt) : (s.raise h).rnd = s.rnd := rfl
@[simp] theorem State.raise_draws (h : Halt) : (s.raise h).draws = s.draws := rfl
@[simp] theorem State.raise_host (h : Halt) : (s.raise h).host = s.host := rfl
@[simp] theorem State.raise_events (h : Halt) : (s.raise h).events = s.events ++ [.fatal h] := rfl
@[simp] theorem State.raise_result (h : Halt) : (s.raise h).result = s.result := rfl
@[simp] theorem State.raise_toSnapshot (h : Halt) : (s.raise h).toSnapshot = s.toSnapshot := rfl
@[simp] theorem State.raise_getV (h : Halt) (q : Reg) : (s.raise h).getV q = s.getV q := rfl
@[simp] theorem State.raise_readByte (h : Halt) (c : Addr) : (s.raise h).readByte c = s.readByte c := rfl
@[simp] theorem State.raise_cell (h : Halt) (row : Fin 32) (col : Fin 64) : (s.raise h).cell row col = s.cell row col := rfl
@[simp] theorem State.raise_stackAt (h : Halt) (j : BitVec 5) : (s.raise h).stackAt j = s.stackAt j := rfl

/-! ### `clearHalt` -/

@[simp] theorem State.clearHalt_mem : (s.clearHalt).mem = s.mem := rfl
@[simp] theorem State.clearHalt_v : (s.clearHalt).v = s.v := rfl
@[simp] theorem State.clearHalt_i : (s.clearHalt).i = s.i := rfl
@[simp] theorem State.clearHalt_pc : (s.clearHalt).pc = s.pc := rfl
@[simp] theorem State.clearHalt_stack : (s.clearHalt).stack = s.stack := rfl
@[simp] theorem State.clearHalt_sp : (s.clearHalt).sp = s.sp := rfl
@[simp] theorem State.clearHalt_fb : (s.clearHalt).fb = s.fb := rfl
@[simp] theorem State.clearHalt_dt : (s.clearHalt).dt = s.dt := rfl
@[simp] theorem State.clearHalt_st : (s.clearHalt).st = s.st := rfl
@[simp] theorem State.clearHalt_kw : (s.clearHalt).kw = s.kw := rfl
@[simp] theorem State.clearHalt_halt : (s.clearHalt).halt = none := rfl
@[simp] theorem State.clearHalt_hist : (s.clearHalt).hist = s.hist := rfl
@[simp] theorem State.clearHalt_cfg : (s.clearHalt).cfg = s.cfg := rfl
@[simp] theorem State.clearHalt_keys : (s.clearHalt).keys = s.keys := rfl
@[simp] theorem State.clearHalt_rnd : (s.clearHalt).rnd = s.rnd := rfl
@[simp] theorem State.clearHalt_draws : (s.clearHalt).draws = s.draws := rfl
@[simp] theorem State.clearHalt_host : (s.clearHalt).host = s.host := rfl
@[simp] theorem State.clearHalt_events : (s.clearHalt).events = s.events := rfl
@[simp] theorem State.clearHalt_result : (s.clearHalt).result = s.result := rfl
@[simp] theorem State.clearHalt_toSnapshot : (s.clearHalt).toSnapshot = s.toSnapshot := rfl
@[simp] theorem State.clearHalt_getV (q : Reg) : (s.clearHalt).getV q = s.getV q := rfl
@[simp] theorem State.clearHalt_readByte (c : Addr) : (s.clearHalt).readByte c = s.readByte c := rfl
@[simp] theorem State.clearHalt_cell (row : Fin 32) (col : Fin 64) : (s.clearHalt).cell row col = s.cell row col := rfl
@[simp] theorem State.clearHalt_stackAt (j : BitVec 5) : (s.clearHalt).stackAt j = s.stackAt j := rfl

/-! ### `restore` -/

@[simp] theorem State.restore_mem (p : Snapshot) : (s.restore p).mem = p.mem := rfl
@[simp] theorem State.restore_v (p : Snapshot) : (s.restore p).v = p.v := rfl
@[simp] theorem State.restore_i (p : Snapshot) : (s.restore p).i = p.i := rfl
@[simp] theorem State.restore_pc (p : Snapshot) : (s.restore p).pc = p.pc := rfl
@[simp] theorem State.restore_stack (p : Snapshot) : (s.restore p).stack = p.stack := rfl
@[simp] theorem State.restore_sp (p : Snapshot) : (s.restore p).sp = p.sp := rfl
@[simp] theorem State.restore_fb (p : Snapshot) : (s.restore p).fb = p.fb := rfl
@[simp] theorem State.restore_dt (p : Snapshot) : (s.restore p).dt = p.dt := rfl
@[simp] theorem State.restore_st (p : Snapshot) : (s.restore p).st = p.st := rfl
@[simp] theorem State.restore_kw (p : Snapshot) : (s.restore p).kw = p.kw := rfl
@[simp] theorem State.restore_halt (p : Snapshot) : (s.restore p).halt = s.halt := rfl
@[simp] theorem State.restore_hist (p : Snapshot) : (s.restore p).hist = s.hist := rfl
@[simp] theorem State.restore_cfg (p : Snapshot) : (s.restore p).cfg = s.cfg := rfl
@[simp] theorem State.restore_keys (p : Snapshot) : (s.restore p).keys = s.keys := rfl
@[simp] theorem State.restore_rnd (p : Snapshot) : (s.restore p).rnd = s.rnd := rfl
@[simp] theorem State.restore_draws (p : Snapshot) : (s.restore p).draws = s.draws := rfl
@[simp] theorem State.restore_host (p : Snapshot) : (s.restore p).host = s.host := rfl
@[simp] theorem State.restore_events (p : Snapshot) : (s.restore p).events = s.events := rfl
@[simp] theorem State.restore_result (p : Snapshot) : (s.restore p).result = s.result := rfl
@[simp] theorem State.restore_toSnapshot (p : Snapshot) : (s.restore p).toSnapshot = p := rfl

/-! ### `pushHist` -/

@[simp] theorem State.pushHist_mem (p : Snapshot) : (s.pushHist p).mem = s.mem := rfl
@[simp] theorem State.pushHist_v (p : Snapshot) : (s.pushHist p).v = s.v := rfl
@[simp] theorem State.pushHist_i (p : Snapshot) : (s.pushHist p).i = s.i := rfl
@[simp] theorem State.pushHist_pc (p : Snapshot) : (s.pushHist p).pc = s.pc := rfl
@[simp] theorem State.pushHist_stack (p : Snapshot) : (s.pushHist p).stack = s.stack := rfl
@[simp] theorem State.pushHist_sp (p : Snapshot) : (s.pushHist p).sp = s.sp := rfl
@[simp] theorem State.pushHist_fb (p : Snapshot) : (s.pushHist p).fb = s.fb := rfl
@[simp] theorem State.pushHist_dt (p : Snapshot) : (s.pushHist p).dt = s.dt := rfl
@[simp] theorem State.pushHist_st (p : Snapshot) : (s.pushHist p).st = s.st := rfl
@[simp] theorem State.pushHist_kw (p : Snapshot) : (s.pushHist p).kw = s.kw := rfl
@[simp] theorem State.pushHist_halt (p : Snapshot) : (s.pushHist p).halt = s.halt := rfl
@[simp] theorem State.pushHist_hist (p : Snapshot) : (s.pushHist p).hist = pushHistory s.cfg.histCap s.hist p := rfl
@[simp] theorem State.pushHist_cfg (p : Snapshot) : (s.pushHist p).cfg = s.cfg := rfl
@[simp] theorem State.pushHist_keys (p : Snapshot) : (s.pushHist p).keys = s.keys := rfl
@[simp] theorem State.pushHist_rnd (p : Snapshot) : (s.pushHist p).rnd = s.rnd := rfl
@[simp] theorem State.pushHist_draws (p : Snapshot) : (s.pushHist p).draws = s.draws := rfl
@[simp] theorem State.pushHist_host (p : Snapshot) : (s.pushHist p).host = s.host := rfl
@[simp] theorem State.pushHist_events (p : Snapshot) : (s.pushHist p).events = s.events := rfl
@[simp] theorem State.pushHist_result (p : Snapshot) : (s.pushHist p).result = s.result := rfl
@[simp] theorem State.pushHist_toSnapshot (p : Snapshot) : (s.pushHist p).toSnapshot = s.toSnapshot := rfl
@[simp] theorem State.pushHist_getV (p : Snapshot) (q : Reg) : (s.pushHist p).getV q = s.getV q := rfl
@[simp] theorem State.pushHist_readByte (p : Snapshot) (c : Addr) : (s.pushHist p).readByte c = s.readByte c := rfl
@[simp] theorem State.pushHist_cell (p : Snapshot) (row : Fin 32) (col : Fin 64) : (s.pushHist p).cell row col = s.cell row col := rfl
@[simp] theorem State.pushHist_stackAt (p : Snapshot) (j : BitVec 5) : (s.pushHist p).stackAt j = s.stackAt j := rfl

/-! ### `dropNewest` -/

@[simp] theorem State.dropNewest_mem : (s.dropNewest).mem = s.mem := rfl
@[simp] theorem State.dropNewest_v : (s.dropNewest).v = s.v := rfl
@[simp] theorem State.dropNewest_i : (s.dropNewest).i = s.i := rfl
@[simp] theorem State.dropNewest_pc : (s.dropNewest).pc = s.pc := rfl
@[simp] theorem State.dropNewest_stack : (s.dropNewest).stack = s.stack := rfl
@[simp] theorem State.dropNewest_sp : (s.dropNewest).sp = s.sp := rfl
@[simp] theorem State.dropNewest_fb : (s.dropNewest).fb = s.fb := rfl
@[simp] theorem State.dropNewest_dt : (s.dropNewest).dt = s.dt := rfl
@[simp] theorem State.dropNewest_st : (s.dropNewest).st = s.st := rfl
@[simp] theorem State.dropNewest_kw : (s.dropNewest).kw = s.kw := rfl
@[simp] theorem State.dropNewest_halt : (s.dropNewest).halt = s.halt := rfl
@[simp] theorem State.dropNewest_hist : (s.dropNewest).hist = s.hist.dropLast := rfl
@[simp] theorem State.dropNewest_cfg : (s.dropNewest).cfg = s.cfg := rfl
@[simp] theorem State.dropNewest_keys : (s.dropNewest).keys = s.keys := rfl
@[simp] theorem State.dropNewest_rnd : (s.dropNewest).rnd = s.rnd := rfl
@[simp] theorem State.dropNewest_draws : (s.dropNewest).draws = s.draws := rfl
@[simp] theorem State.dropNewest_host : (s.dropNewest).host = s.host := rfl
@[simp] theorem State.dropNewest_events : (s.dropNewest).events = s.events := rfl
@[simp] theorem State.dropNewest_result : (s.dropNewest).result = s.result := rfl
@[simp] theorem State.dropNewest_toSnapshot : (s.dropNewest).toSnapshot = s.toSnapshot := rfl
@[simp] theorem State.dropNewest_getV (q : Reg) : (s.dropNewest).getV q = s.getV q := rfl
@[simp] theorem State.dropNewest_readByte (c : Addr) : (s.dropNewest).readByte c = s.readByte c := rfl
@[simp] theorem State.dropNewest_cell (row : Fin 32) (col : Fin 64) : (s.dropNewest).cell row col = s.cell row col := rfl
@[simp] theorem State.dropNewest_stackAt (j : BitVec 5) : (s.dropNewest).stackAt j = s.stackAt j := rfl

/-! ### `clearHist` -/

@[simp] theorem State.clearHist_mem : (s.clearHist).mem = s.mem := rfl
@[simp] theorem State.clearHist_v : (s.clearHist).v = s.v := rfl
@[simp] theorem State.clearHist_i : (s.clearHist).i = s.i := rfl
@[simp] theorem State.clearHist_pc : (s.clearHist).pc = s.pc := rfl
@[simp] theorem State.clearHist_stack : (s.clearHist).stack = s.stack := rfl
@[simp] theorem State.clearHist_sp : (s.clearHist).sp = s.sp := rfl
@[simp] theorem State.clearHist_fb : (s.clearHist).fb = s.fb := rfl
@[simp] theorem State.clearHist_dt : (s.clearHist).dt = s.dt := rfl
@[simp] theorem State.clearHist_st : (s.clearHist).st = s.st := rfl
@[simp] theorem State.clearHist_kw : (s.clearHist).kw = s.kw := rfl
@[simp] theorem State.clearHist_halt : (s.clearHist).halt = s.halt := rfl
@[simp] theorem State.clearHist_hist : (s.clearHist).hist = [] := rfl
@[simp] theorem State.clearHist_cfg : (s.clearHist).cfg = s.cfg := rfl
@[simp] theorem State.clearHist_keys : (s.clearHist).keys = s.keys := rfl
@[simp] theorem State.clearHist_rnd : (s.clearHist).rnd = s.rnd := rfl
@[simp] theorem State.clearHist_draws : (s.clearHist).draws = s.draws := rfl
@[simp] theorem State.clearHist_host : (s.clearHist).host = s.host := rfl
@[simp] theorem State.clearHist_events : (s.clearHist).events = s.events := rfl
@[simp] theorem State.clearHist_result : (s.clearHist).result = s.result := rfl
@[simp] theorem State.clearHist_toSnapshot : (s.clearHist).toSnapshot = s.toSnapshot := rfl
@[simp] theorem State.clearHist_getV (q : Reg) : (s.clearHist).getV q = s.getV q := rfl
@[simp] theorem State.clearHist_readByte (c : Addr) : (s.clearHist).readByte c = s.readByte c := rfl
@[simp] theorem State.clearHist_cell (row : Fin 32) (col : Fin 64) : (s.clearHist).cell row col = s.cell row col := rfl
@[simp] theorem State.clearHist_stackAt (j : BitVec 5) : (s.clearHist).stackAt j = s.stackAt j := rfl

/-! ### `setWithFlag` -/

@[simp] theorem State.setWithFlag_mem (x : Reg) (b : Byte) (f : Bool) : (s.setWithFlag x b f).mem = s.mem := rfl
@[simp] theorem State.setWithFlag_i (x : Reg) (b : Byte) (f : Bool) : (s.setWithFlag x b f).i = s.i := rfl
@[simp] theorem State.setWithFlag_pc (x : Reg) (b : Byte) (f : Bool) : (s.setWithFlag x b f).pc = s.pc := rfl
@[simp] theorem State.setWithFlag_stack (x : Reg) (b : Byte) (f : Bool) : (s.setWithFlag x b f).stack = s.stack := rfl
@[simp] theorem State.setWithFlag_sp (x : Reg) (b : Byte) (f : Bool) : (s.setWithFlag x b f).sp = s.sp := rfl
@[simp] theorem State.setWithFlag_fb (x : Reg) (b : Byte) (f : Bool) : (s.setWithFlag x b f).fb = s.fb := rfl
@[simp] theorem State.setWithFlag_dt (x : Reg) (b : Byte) (f : Bool) : (s.setWithFlag x b f).dt = s.dt := rfl
@[simp] theorem State.setWithFlag_st (x : Reg) (b : Byte) (f : Bool) : (s.setWithFlag x b f).st = s.st := rfl
@[simp] theorem State.setWithFlag_kw (x : Reg) (b : Byte) (f : Bool) : (s.setWithFlag x b f).kw = s.kw := rfl
@[simp] theorem State.setWithFlag_halt (x : Reg) (b : Byte) (f : Bool) : (s.setWithFlag x b f).halt = s.halt := rfl
@[simp] theorem State.setWithFlag_hist (x : Reg) (b : Byte) (f : Bool) : (s.setWithFlag x b f).hist = s.hist := rfl
@[simp] theorem State.setWithFlag_cfg (x : Reg) (b : Byte) (f : Bool) : (s.setWithFlag x b f).cfg = s.cfg := rfl
@[simp] theorem State.setWithFlag_keys (x : Reg) (b : Byte) (f : Bool) : (s.setWithFlag x b f).keys = s.keys := rfl
@[simp] theorem State.setWithFlag_rnd (x : Reg) (b : Byte) (f : Bool) : (s.setWithFlag x b f).rnd = s.rnd := rfl
@[simp] theorem State.setWithFlag_draws (x : Reg) (b : Byte) (f : Bool) : (s.setWithFlag x b f).draws = s.draws := rfl
@[simp] theorem State.setWithFlag_host (x : Reg) (b : Byte) (f : Bool) : (s.setWithFlag x b f).host = s.host := rfl
@[simp] theorem State.setWithFlag_events (x : Reg) (b : Byte) (f : Bool) : (s.setWithFlag x b f).events = s.events := rfl
@[simp] theorem State.setWithFlag_result (x : Reg) (b : Byte) (f : Bool) : (s.setWithFlag x b f).result = s.result := rfl
@[simp] theorem State.setWithFlag_readByte (x : Reg) (b : Byte) (f : Bool) (c : Addr) : (s.setWithFlag x b f).readByte c = s.readByte c := rfl
@[simp] theorem State.setWithFlag_cell (x : Reg) (b : Byte) (f : Bool) (row : Fin 32) (col : Fin 64) : (s.setWithFlag x b f).cell row col = s.cell row col := rfl
@[simp] theorem State.setWithFlag_stackAt (x : Reg) (b : Byte) (f : Bool) (j : BitVec 5) : (s.setWithFlag x b f).stackAt j = s.stackAt j := rfl

/-! ### `skipIf` -/

@[simp] theorem State.skipIf_mem (c : Bool) : (s.skipIf c).mem = s.mem := rfl
@[simp] theorem State.skipIf_v (c : Bool) : (s.skipIf c).v = s.v := rfl
@[simp] theorem State.skipIf_i (c : Bool) : (s.skipIf c).i = s.i := rfl
@[simp] theorem State.skipIf_pc (c : Bool) : (s.skipIf c).pc = if c then s.pc + 2 else s.pc := rfl
@[simp] theorem State.skipIf_stack (c : Bool) : (s.skipIf c).stack = s.stack := rfl
@[simp] theorem State.skipIf_sp (c : Bool) : (s.skipIf c).sp = s.sp := rfl
@[simp] theorem State.skipIf_fb (c : Bool) : (s.skipIf c).fb = s.fb := rfl
@[simp] theorem State.skipIf_dt (c : Bool) : (s.skipIf c).dt = s.dt := rfl
@[simp] theorem State.skipIf_st (c : Bool) : (s.skipIf c).st = s.st := rfl
@[simp] theorem State.skipIf_kw (c : Bool) : (s.skipIf c).kw = s.kw := rfl
@[simp] theorem State.skipIf_halt (c : Bool) : (s.skipIf c).halt = s.halt := rfl
@[simp] theorem State.skipIf_hist (c : Bool) : (s.skipIf c).hist = s.hist := rfl
@[simp] theorem State.skipIf_cfg (c : Bool) : (s.skipIf c).cfg = s.cfg := rfl
@[simp] theorem State.skipIf_keys (c : Bool) : (s.skipIf c).keys = s.keys := rfl
@[simp] theorem State.skipIf_rnd (c : Bool) : (s.skipIf c).rnd = s.rnd := rfl
@[simp] theorem State.skipIf_draws (c : Bool) : (s.skipIf c).draws = s.draws := rfl
@[simp] theorem State.skipIf_host (c : Bool) : (s.skipIf c).host = s.host := rfl
@[simp] theorem State.skipIf_events (c : Bool) : (s.skipIf c).events = s.events := rfl
@[simp] theorem State.skipIf_result (c : Bool) : (s.skipIf c).result = s.result := rfl
@[simp] theorem State.skipIf_getV (c : Bool) (q : Reg) : (s.skipIf c).getV q = s.getV q := rfl
@[simp] theorem State.skipIf_readByte (c : Bool) (d : Addr) : (s.skipIf c).readByte d = s.readByte d := rfl
@[simp] theorem State.skipIf_cell (c : Bool) (row : Fin 32) (col : Fin 64) : (s.skipIf c).cell row col = s.cell row col := rfl
@[simp] theorem State.skipIf_stackAt (c : Bool) (j : BitVec 5) : (s.skipIf c).stackAt j = s.stackAt j := rfl

end Sys2Proof.Machine
end

