-- ==== Sys2Proof/Laws/Ops.lean ====
section
/-! SUPPORT. One lemma per shared operation over registers, memory, stack, display and history: what it can do. -/

namespace Sys2Proof.Machine

variable (s : State)

/-! ### Registers -/

/-- `V[r] <- b` changes `V[r]` and nothing else of the file. -/
@[simp] theorem State.getV_setV (r q : Reg) (b : Byte) :
    (s.setV r b).getV q = if q = r then b else s.getV q := by
  simp only [State.getV, State.setV_v, Vector.getElem_set, BitVec.toNat_inj]
  by_cases h : q = r
  · simp [h]
  · simp [h, Ne.symm h]

/-- R23: VF ends as the flag; the result is in `V[x]` unless x = 15. -/
@[simp] theorem State.getV_setWithFlag (x q : Reg) (b : Byte) (f : Bool) :
    (s.setWithFlag x b f).getV q = if q = VF then flagByte f else if q = x then b else s.getV q := by
  simp [State.setWithFlag]

/-! ### Memory -/

/-- `MemWrite(a, 1, b)` changes the cell a and no other. -/
@[simp] theorem State.readByte_writeByte (a c : Addr) (b : Byte) :
    (s.writeByte a b).readByte c = if c = a then b else s.readByte c := by
  by_cases h : c = a
  · simp [State.readByte, h, Memory.read_write_same]
  · have hn : a.toNat ≠ c.toNat := fun he => h (BitVec.eq_of_toNat_eq he.symm)
    simp [State.readByte, h, Memory.read_write_other _ _ _ _ _ hn]

/-- A write keeps the canonical form. -/
theorem State.wf_writeByte (a : Addr) (b : Byte) (h : s.mem.wf s.cfg = true) :
    (s.writeByte a b).mem.wf s.cfg = true :=
  Memory.wf_write _ _ _ _ a.isLt h

theorem wordOfBytes_high_low (w : Word) : wordOfBytes (highByte w) (lowByte w) = w := by
  apply BitVec.eq_of_getLsbD_eq
  intro k hk
  simp only [wordOfBytes, highByte, lowByte, BitVec.getLsbD_append, BitVec.getLsbD_extractLsb']
  by_cases h : k < 8
  · simp [h]
  · simp [h, show k - 8 < 8 by omega, show 8 + (k - 8) = k by omega]

/-- A word stored at an address is the word read there (R54, R61). -/
theorem State.readWord_writeWord (a : Addr) (w : Word) : (s.writeWord a w).readWord a = w := by
  simp [State.readWord, State.writeWord, wordOfBytes_high_low]

/-! ### Effective addresses -/

/-- The bytes of one operand (at most 4096 of them) lie at different addresses (R53). -/
theorem State.ea_inj {j k : Nat} (hj : j < 4096) (hk : k < 4096) : s.ea j = s.ea k ↔ j = k := by
  constructor
  · intro h
    have := congrArg BitVec.toNat h
    simp only [State.ea, BitVec.toNat_ofNat] at this
    omega
  · rintro rfl
    rfl

@[simp] theorem State.ea_of_i {s t : State} (h : t.i = s.i) (k : Nat) : t.ea k = s.ea k := by
  simp [State.ea, h]

/-! ### Stack -/

/-- A push onto a slot that exists writes that slot and no other. -/
theorem State.stackAt_pushStack (a : Addr) (k : BitVec 5) (h : s.sp.toNat < s.stack.length) :
    (s.pushStack a).stackAt k = if k = s.sp then a else s.stackAt k := by
  by_cases hk : k = s.sp
  · simp [State.stackAt, hk, h]
  · have hn : s.sp.toNat ≠ k.toNat := fun he => hk (BitVec.eq_of_toNat_eq he.symm)
    simp [State.stackAt, hk, hn]

/-! ### Display -/

/-- A toggle inverts one cell. -/
theorem Framebuffer.cell_toggle (fb : Framebuffer) (row row' : Fin 32) (col col' : Fin 64) :
    (fb.toggle row col).cell row' col' =
      if row' = row ∧ col' = col then !fb.cell row' col' else fb.cell row' col' := by
  simp only [Framebuffer.cell, Framebuffer.toggle, Fin.getElem_fin, Vector.getElem_set, Fin.val_inj]
  by_cases hr : row' = row
  · subst hr
    by_cases hc : col' = col
    · subst hc
      simp
    · simp [Fin.val_inj, hc, Ne.symm hc]
  · simp [hr, Ne.symm hr]

/-- No cell of the blank display is lit. -/
@[simp] theorem Framebuffer.cell_blank (row : Fin 32) (col : Fin 64) : Framebuffer.blank.cell row col = false := by
  simp [Framebuffer.cell, Framebuffer.blank]

/-- The cell of a replaced display. -/
@[simp] theorem State.setFb_cell (fb : Framebuffer) (row : Fin 32) (col : Fin 64) :
    (s.setFb fb).cell row col = fb.cell row col := rfl

/-! ### History (R32) -/

variable (cap : Nat) (h : List Snapshot) (p : Snapshot)

/-- A push keeps the bound, when the capacity is at least 1. -/
theorem length_pushHistory (hc : h.length ≤ cap) :
    (pushHistory cap h p).length = if h.length = cap then h.length else h.length + 1 := by
  unfold pushHistory
  by_cases hl : h.length = cap
  · simp [hl]
  · simp [show ¬cap ≤ h.length by omega, hl]

/-- The newest entry after a push is the one pushed, when the capacity is at least 1. -/
theorem getLast?_pushHistory (hc : 1 ≤ cap) : (pushHistory cap h p).getLast? = some p := by
  unfold pushHistory
  split
  · next hl =>
    cases h with
    | nil => simp at hl; omega
    | cons q h => simp
  · simp

/-- A pop after a push onto a history that is not full gives the history back; onto a full one, all but the
oldest entry. -/
theorem dropLast_pushHistory (hc : 1 ≤ cap) (hl : h.length ≤ cap) :
    (pushHistory cap h p).dropLast = if h.length = cap then h.drop 1 else h := by
  unfold pushHistory
  by_cases he : h.length = cap
  · cases h with
    | nil => simp at he; omega
    | cons q h => simp at he; simp [he]
  · simp [show ¬cap ≤ h.length by omega, he]

/-- An entry of the history after a push is the pushed one or an old one. -/
theorem mem_pushHistory {q : Snapshot} (hq : q ∈ pushHistory cap h p) : q = p ∨ q ∈ h := by
  unfold pushHistory at hq
  split at hq
  · have := List.mem_of_mem_drop hq
    simp at this
    tauto
  · simp at hq
    tauto

/-! ### Keys (R185) -/

/-- With a key pressed, `lowestKey` is pressed and no lower one is. -/
theorem lowestKey_spec (keys : BitVec 16) (hk : keys ≠ 0) :
    keys.getLsbD (lowestKey keys).toNat = true ∧ ∀ k < (lowestKey keys).toNat, keys.getLsbD k = false := by
  obtain ⟨m, hm, hb⟩ : ∃ m, m < 16 ∧ keys.getLsbD m = true := by
    by_contra hno
    push Not at hno
    exact hk (BitVec.eq_of_getLsbD_eq fun i hi => by simpa using hno i hi)
  obtain ⟨k, hf⟩ : ∃ k, (List.range 16).find? (fun k => keys.getLsbD k) = some k := by
    rw [← Option.isSome_iff_exists, List.find?_isSome]
    exact ⟨m, List.mem_range.mpr hm, hb⟩
  have hk16 : k < 16 := List.mem_range.mp (List.mem_of_find?_eq_some hf)
  have hto : (lowestKey keys).toNat = k := by
    simp only [lowestKey, hf, Option.getD_some, BitVec.toNat_ofNat]
    omega
  rw [hto]
  refine ⟨by simpa using List.find?_some hf, fun j hj => ?_⟩
  have := List.find?_range_eq_some.mp hf
  simpa using this.2.2 j hj

end Sys2Proof.Machine
end

