-- ==== Sys2Proof/Laws/Blocks.lean ====
section
/-! SUPPORT. What the looping operations do: block store and load (spec/43_index_memory.md R154, R155), the ROM copy
(spec/70_reset_and_hazards.md R251) and the sprite blit (spec/44_display.md R171). -/

namespace Sys2Proof.Machine

variable (s : State)

/-! ### Block store -/

/-- The first m stores of Fx55. -/
theorem storeFold_spec (m : Nat) (hm : m ≤ 16) :
    let t := (List.range m).foldl (fun t k => t.writeByte (s.ea k) (s.getV (BitVec.ofNat 4 k))) s
    (∃ mem, t = { s with mem := mem } ∧ (s.mem.wf s.cfg = true → mem.wf s.cfg = true)) ∧
    (∀ k < m, t.readByte (s.ea k) = s.getV (BitVec.ofNat 4 k)) ∧
    ∀ a, (∀ k < m, a ≠ s.ea k) → t.readByte a = s.readByte a := by
  induction m with
  | zero => exact ⟨⟨s.mem, rfl, id⟩, by simp, by simp⟩
  | succ m ih =>
    obtain ⟨⟨mem, ht, hwf⟩, hin, hout⟩ := ih (by omega)
    simp only [List.range_succ, List.foldl_append, List.foldl_cons, List.foldl_nil]
    refine ⟨?_, fun k hk => ?_, fun a ha => ?_⟩
    · rw [ht]
      exact ⟨_, rfl, fun h => Memory.wf_write _ _ _ _ (s.ea m).isLt (hwf h)⟩
    · rw [State.readByte_writeByte]
      by_cases hkm : k = m
      · simp [hkm]
      · rw [if_neg (fun h => hkm ((s.ea_inj (by omega) (by omega)).mp h))]
        exact hin k (by omega)
    · rw [State.readByte_writeByte, if_neg (ha m (by omega))]
      exact hout a fun k hk => ha k (by omega)

/-- Fx55 stores `V[k]` at byte k of its operand for k up to x. -/
theorem State.storeBlock_in (x : Reg) {k : Nat} (hk : k ≤ x.toNat) :
    (s.storeBlock x).readByte (s.ea k) = s.getV (BitVec.ofNat 4 k) :=
  (storeFold_spec s (x.toNat + 1) (by omega)).2.1 k (by omega)

/-- Fx55 leaves every other byte of memory alone. -/
theorem State.storeBlock_out (x : Reg) {a : Addr} (ha : ∀ k ≤ x.toNat, a ≠ s.ea k) :
    (s.storeBlock x).readByte a = s.readByte a :=
  (storeFold_spec s (x.toNat + 1) (by omega)).2.2 a fun k hk => ha k (by omega)

/-- Fx55's stores change memory alone, and keep it canonical. -/
theorem State.storeBlock_eq (x : Reg) : ∃ mem, s.storeBlock x = { s with mem := mem } ∧
    (s.mem.wf s.cfg = true → mem.wf s.cfg = true) :=
  (storeFold_spec s (x.toNat + 1) (by omega)).1

/-! ### Block load -/

/-- The first m loads of Fx65. -/
theorem loadFold_spec (m : Nat) (hm : m ≤ 16) :
    let t := (List.range m).foldl (fun t k => t.setV (BitVec.ofNat 4 k) (s.readByte (s.ea k))) s
    (∃ v, t = { s with v := v }) ∧
    ∀ q, t.getV q = if q.toNat < m then s.readByte (s.ea q.toNat) else s.getV q := by
  induction m with
  | zero => exact ⟨⟨s.v, rfl⟩, by simp⟩
  | succ m ih =>
    obtain ⟨⟨v, ht⟩, hq⟩ := ih (by omega)
    simp only [List.range_succ, List.foldl_append, List.foldl_cons, List.foldl_nil]
    refine ⟨?_, fun q => ?_⟩
    · rw [ht]
      exact ⟨_, rfl⟩
    · rw [State.getV_setV, hq]
      have hto : (BitVec.ofNat 4 m).toNat = m := by simp; omega
      by_cases h : q.toNat = m
      · have : q = BitVec.ofNat 4 m := BitVec.eq_of_toNat_eq (by omega)
        simp [this, hto]
      · have : q ≠ BitVec.ofNat 4 m := fun he => h (by rw [he, hto])
        simp [this, show (q.toNat < m + 1) ↔ (q.toNat < m) by omega]

/-- Fx65 loads `V[q]` from byte q of its operand for q up to x and leaves the other registers alone. -/
theorem State.getV_loadBlock (x q : Reg) : (s.loadBlock x).getV q =
    if q.toNat ≤ x.toNat then s.readByte (s.ea q.toNat) else s.getV q := by
  simpa only [State.loadBlock, Nat.lt_succ_iff] using (loadFold_spec s (x.toNat + 1) (by omega)).2 q

/-- Fx65's loads change the register file alone. -/
theorem State.loadBlock_eq (x : Reg) : ∃ v, s.loadBlock x = { s with v := v } :=
  (loadFold_spec s (x.toNat + 1) (by omega)).1

/-! ### ROM copy -/

/-- The copy changes memory alone, and keeps it canonical. -/
theorem State.copyRom_eq (a : Addr) (bytes : List Byte) : ∃ mem, s.copyRom a bytes = { s with mem := mem } ∧
    (s.mem.wf s.cfg = true → mem.wf s.cfg = true) := by
  induction bytes generalizing s a with
  | nil => exact ⟨s.mem, rfl, id⟩
  | cons b bytes ih =>
    obtain ⟨mem, he, hw⟩ := ih (s.writeByte a b) (a + 1)
    exact ⟨mem, he, fun h => hw (State.wf_writeByte s a b h)⟩

/-- Bytes outside the copied range are unchanged. -/
theorem State.copyRom_out (a c : Addr) (bytes : List Byte) (hfit : a.toNat + bytes.length ≤ 4096)
    (hc : c.toNat < a.toNat ∨ a.toNat + bytes.length ≤ c.toNat) :
    (s.copyRom a bytes).readByte c = s.readByte c := by
  induction bytes generalizing s a with
  | nil => rfl
  | cons b bytes ih =>
    simp only [List.length_cons] at hfit hc
    have hne : c ≠ a := fun h => by subst h; omega
    rcases bytes with _ | ⟨b', bytes⟩
    · simp [State.copyRom, hne]
    · have h1 : (a + 1).toNat = a.toNat + 1 := by
        simp only [List.length_cons] at hfit
        simp [BitVec.toNat_add]
        omega
      rw [State.copyRom, ih (s.writeByte a b) (a + 1) (by omega) (by omega)]
      simp [hne]

/-- Byte k of the ROM is read back at the start address plus k. -/
theorem State.copyRom_in (a : Addr) (bytes : List Byte) (hfit : a.toNat + bytes.length ≤ 4096) (k : Nat)
    (hk : k < bytes.length) : (s.copyRom a bytes).readByte (BitVec.ofNat 12 (a.toNat + k)) = bytes[k] := by
  induction bytes generalizing s a k with
  | nil => simp at hk
  | cons b bytes ih =>
    simp only [List.length_cons] at hfit hk
    rcases bytes with _ | ⟨b', bytes⟩
    · obtain rfl : k = 0 := by simpa using hk
      simp [State.copyRom]
    · have h1 : (a + 1).toNat = a.toNat + 1 := by
        simp only [List.length_cons] at hfit
        simp [BitVec.toNat_add]
        omega
      rcases k with _ | k
      · rw [State.copyRom, State.copyRom_out _ _ _ _ (by omega) (by left; simp; omega)]
        simp
      · have := ih (s.writeByte a b) (a + 1) (by omega) k (by omega)
        rw [h1, show a.toNat + 1 + k = a.toNat + (k + 1) by omega] at this
        simpa [State.copyRom] using this

/-! ### Sprite blit -/

theorem spriteCol_inj (x0 : Byte) {c d : Nat} (hc : c < 8) (hd : d < 8) :
    spriteCol x0 c = spriteCol x0 d ↔ c = d := by
  simp only [spriteCol, Fin.ext_iff, Fin.val_ofNat]
  omega

theorem spriteRow_inj (y0 : Byte) {q r : Nat} (hq : q < 32) (hr : r < 32) :
    spriteRow y0 q = spriteRow y0 r ↔ q = r := by
  simp only [spriteRow, Fin.ext_iff, Fin.val_ofNat]
  omega

/-- The first m columns of one sprite row. -/
theorem blitCols_spec (x0 y0 b : Byte) (r : Nat) (acc : Framebuffer × Bool) (m : Nat) (hm : m ≤ 8) :
    let res := (List.range m).foldl (blitBit x0 y0 b r) acc
    (∀ row col, res.1.cell row col = (acc.1.cell row col ^^
      decide (row = spriteRow y0 r ∧ ∃ c < m, spriteBit b c = true ∧ col = spriteCol x0 c))) ∧
    (res.2 = true ↔ acc.2 = true ∨
      ∃ c < m, spriteBit b c = true ∧ acc.1.cell (spriteRow y0 r) (spriteCol x0 c) = true) := by
  induction m with
  | zero => simp
  | succ m ih =>
    obtain ⟨hcell, hflag⟩ := ih (by omega)
    simp only [List.range_succ, List.foldl_append, List.foldl_cons, List.foldl_nil]
    have hfresh : ¬∃ c < m, spriteBit b c = true ∧ spriteCol x0 m = spriteCol x0 c := by
      rintro ⟨c, hc, -, he⟩
      have := (spriteCol_inj x0 (by omega) (by omega)).mp he
      omega
    have hcur := hcell (spriteRow y0 r) (spriteCol x0 m)
    simp only [true_and, hfresh, decide_false, Bool.xor_false] at hcur
    by_cases hb : spriteBit b m = true
    · simp only [blitBit, hb, if_true]
      refine ⟨fun row col => ?_, ?_⟩
      · rw [Framebuffer.cell_toggle, hcell]
        simp only [Nat.lt_succ_iff_lt_or_eq, or_and_right, exists_or, exists_eq_left, hb, true_and]
        by_cases hrow : row = spriteRow y0 r
        · by_cases hcol : col = spriteCol x0 m
          · simp [hrow, hcol, hfresh]
          · simp [hrow, hcol]
        · simp [hrow]
      · simp only [Bool.or_eq_true, hflag, hcur, Nat.lt_succ_iff_lt_or_eq, or_and_right, exists_or,
          exists_eq_left, hb, true_and, or_assoc]
    · simp only [Bool.not_eq_true] at hb
      simp only [blitBit, hb, Bool.false_eq_true, if_false, Nat.lt_succ_iff_lt_or_eq, or_and_right, exists_or,
        exists_eq_left, false_and, or_false]
      exact ⟨hcell, hflag⟩

open Classical in
/-- The first n rows of a sprite. -/
theorem blitRows_spec (x0 y0 : Byte) (n : Nat) (hn : n ≤ 32) :
    let res := s.blit x0 y0 n
    (∀ row col, res.1.cell row col = (s.cell row col ^^ decide (∃ r < n, row = spriteRow y0 r ∧
      ∃ c < 8, spriteBit (s.readByte (s.ea r)) c = true ∧ col = spriteCol x0 c))) ∧
    (res.2 = true ↔ ∃ r < n, ∃ c < 8, spriteBit (s.readByte (s.ea r)) c = true ∧
      s.cell (spriteRow y0 r) (spriteCol x0 c) = true) := by
  induction n with
  | zero => simp [State.blit, State.cell]
  | succ n ih =>
    obtain ⟨hcell, hflag⟩ := ih (by omega)
    have hstep : s.blit x0 y0 (n + 1) = blitRow x0 y0 (s.readByte (s.ea n)) n (s.blit x0 y0 n) := by
      simp [State.blit, List.range_succ]
    obtain ⟨hc, hf⟩ := blitCols_spec x0 y0 (s.readByte (s.ea n)) n (s.blit x0 y0 n) 8 (by omega)
    simp only [hstep, blitRow]
    have hfresh : ∀ r < n, spriteRow y0 n ≠ spriteRow y0 r := fun r hr he => by
      have := (spriteRow_inj y0 (by omega) (by omega)).mp he
      omega
    refine ⟨fun row col => ?_, ?_⟩
    · rw [hc, hcell]
      simp only [Nat.exists_lt_succ_right (n := n)]
      by_cases hrow : row = spriteRow y0 n
      · subst hrow
        have : ¬∃ r < n, spriteRow y0 n = spriteRow y0 r ∧
            ∃ c < 8, spriteBit (s.readByte (s.ea r)) c = true ∧ col = spriteCol x0 c := by
          rintro ⟨r, hr, he, -⟩
          exact hfresh r hr he
        simp only [this, decide_false, Bool.xor_false, true_and, false_or]
      · simp [hrow]
    · rw [hf, hflag]
      have hcur : ∀ col, (s.blit x0 y0 n).1.cell (spriteRow y0 n) col = s.cell (spriteRow y0 n) col := by
        intro col
        rw [hcell]
        have : ¬∃ r < n, spriteRow y0 n = spriteRow y0 r ∧
            ∃ c < 8, spriteBit (s.readByte (s.ea r)) c = true ∧ col = spriteCol x0 c := by
          rintro ⟨r, hr, he, -⟩
          exact hfresh r hr he
        simp [this]
      simp only [hcur, Nat.exists_lt_succ_right (n := n)]

/-- The rows and columns of the sprite at a cell, in the words of `SpriteCovers`. -/
theorem spriteCovers_iff (x0 y0 : Byte) (n : Nat) (row : Fin 32) (col : Fin 64) :
    SpriteCovers s x0 y0 n row col ↔ ∃ r < n, row = spriteRow y0 r ∧
      ∃ c < 8, spriteBit (s.readByte (s.ea r)) c = true ∧ col = spriteCol x0 c := by
  simp only [SpriteCovers, spriteRow, spriteCol, spriteBit, Fin.ext_iff, Fin.val_ofNat]
  constructor
  · rintro ⟨r, c, hr, hc, hb, h1, h2⟩
    exact ⟨r, hr, h1, c, hc, hb, h2⟩
  · rintro ⟨r, hr, h1, c, hc, hb, h2⟩
    exact ⟨r, c, hr, hc, hb, h1, h2⟩

end Sys2Proof.Machine
end

