-- ==== Sys2Proof/Laws/Exec.lean ====
section
/-! SUPPORT. What any instruction can do: it always completes, it stays away from the history, the configuration
and the host's ports, it keeps a snapshot well formed, and it either raises an error having done nothing else
or leaves HALT as it was. -/

namespace Sys2Proof.Machine

/-- Every instruction has a next state. -/
theorem exec_completes (i : Instr) (s : State) : ∃ t, exec i s = .next t := by
  cases i <;> exact ⟨_, rfl⟩

/-- No instruction touches HIST, the configuration, the inputs, the requests or the result. -/
theorem exec_outside {i : Instr} {s t : State} (h : exec i s = .next t) :
    t.hist = s.hist ∧ t.cfg = s.cfg ∧ t.keys = s.keys ∧ t.rnd = s.rnd ∧ t.draws = s.draws ∧
      t.host = s.host ∧ t.result = s.result := by
  cases i
  case ret =>
    cases h
    split <;> simp
  case call =>
    cases h
    split <;> simp
  case ldVxK =>
    cases h
    split <;> simp [State.deliverKey]
  case ldMemVx x =>
    cases h
    obtain ⟨mem, hm, -⟩ := s.storeBlock_eq x
    simp [hm]
  case ldVxMem x =>
    cases h
    obtain ⟨v, hv⟩ := s.loadBlock_eq x
    simp [hv]
  all_goals
    cases h
    simp

/-- An instruction leaves HALT as it was, or it raises an error and changes nothing but HALT and the events
(R205). -/
theorem exec_halt {i : Instr} {s t : State} (h : exec i s = .next t) :
    t.halt = s.halt ∨ ∃ e, t = s.raise e := by
  cases i
  case ret =>
    cases h
    split
    · exact .inr ⟨_, rfl⟩
    · exact .inl rfl
  case call =>
    cases h
    split
    · exact .inr ⟨_, rfl⟩
    · exact .inl rfl
  case ldVxK =>
    cases h
    split <;> exact .inl rfl
  case ldMemVx x =>
    cases h
    obtain ⟨mem, hm, -⟩ := s.storeBlock_eq x
    simp [hm]
  case ldVxMem x =>
    cases h
    obtain ⟨v, hv⟩ := s.loadBlock_eq x
    simp [hv]
  all_goals
    cases h
    simp

/-- The three facts of a well-formed snapshot. -/
theorem Snapshot.wf_iff (c : Config) (p : Snapshot) :
    p.wf c = true ↔ p.mem.wf c = true ∧ p.stack.length = c.stackCap ∧ p.sp.toNat ≤ c.stackCap := by
  simp [Snapshot.wf, and_assoc]

/-- A snapshot well formed in memory, stack and SP is well formed, whatever the rest. -/
theorem Snapshot.wf_congr {c : Config} {p q : Snapshot} (h : p.wf c = true) (hm : q.mem = p.mem)
    (hs : q.stack = p.stack) (hp : q.sp = p.sp) : q.wf c = true := by
  simp only [Snapshot.wf_iff] at *
  rw [hm, hs, hp]
  exact h

/-- SP stays at most STACK_CAP through a push that is allowed (R27). -/
theorem State.wf_pushStack (s : State) (a : Addr) (hc : s.cfg.stackCap ≤ 16) (h : s.toSnapshot.wf s.cfg = true)
    (hs : s.sp.toNat ≠ s.cfg.stackCap) : (s.pushStack a).toSnapshot.wf s.cfg = true := by
  simp only [Snapshot.wf_iff] at *
  refine ⟨h.1, by simp [h.2.1], ?_⟩
  have : (s.sp + 1).toNat = s.sp.toNat + 1 := by
    rw [BitVec.toNat_add]
    simp
    omega
  simp only [State.pushStack_sp, this]
  omega

/-- SP stays at least 0 through a pop that is allowed (R27). -/
theorem State.wf_popStack (s : State) (h : s.toSnapshot.wf s.cfg = true) (hs : s.sp ≠ 0) :
    s.popStack.toSnapshot.wf s.cfg = true := by
  simp only [Snapshot.wf_iff] at *
  refine ⟨h.1, h.2.1, ?_⟩
  have h0 : s.sp.toNat ≠ 0 := fun h0 => hs (BitVec.eq_of_toNat_eq (by simpa using h0))
  have : (s.sp - 1).toNat = s.sp.toNat - 1 := by
    rw [BitVec.toNat_sub]
    simp
    omega
  simp only [State.popStack_sp, this]
  omega

/-- Every instruction keeps the snapshot elements well formed. -/
theorem exec_wf {i : Instr} {s t : State} (h : exec i s = .next t) (hc : s.cfg.stackCap ≤ 16)
    (hw : s.toSnapshot.wf s.cfg = true) : t.toSnapshot.wf s.cfg = true := by
  cases i
  case ret =>
    cases h
    split
    · exact hw
    · next hs => exact s.wf_popStack hw hs
  case call nnn =>
    cases h
    split
    · exact hw
    · next hs => exact Snapshot.wf_congr (s.wf_pushStack s.pc hc hw hs) rfl rfl rfl
  case ldVxK =>
    cases h
    split <;> exact Snapshot.wf_congr hw rfl rfl rfl
  case ldB x =>
    cases h
    simp only [Snapshot.wf_iff] at *
    refine ⟨?_, hw.2.1, hw.2.2⟩
    exact Memory.wf_write _ _ _ _ (s.ea 2).isLt (Memory.wf_write _ _ _ _ (s.ea 1).isLt
      (Memory.wf_write _ _ _ _ (s.ea 0).isLt hw.1))
  case ldMemVx x =>
    cases h
    obtain ⟨mem, hm, hwm⟩ := s.storeBlock_eq x
    simp only [Snapshot.wf_iff, hm] at *
    exact ⟨hwm hw.1, hw.2.1, hw.2.2⟩
  case ldVxMem x =>
    cases h
    obtain ⟨v, hv⟩ := s.loadBlock_eq x
    rw [hv]
    exact Snapshot.wf_congr hw rfl rfl rfl
  all_goals
    cases h
    exact Snapshot.wf_congr hw rfl rfl rfl

end Sys2Proof.Machine
end

