-- ==== Sys2Proof/Laws/Commands.lean ====
section
/-! SUPPORT. What a command can do, said once per command: an inversion lemma each. -/

namespace Sys2Proof.Machine

variable (s : State)

/-! ### The end of a step -/

/-- A step that raised an error answers Fatal and pushes nothing (R96). -/
theorem State.finishStep_halted (pre : Snapshot) {h : Halt} (hh : s.halt = some h) :
    s.finishStep pre = s.answer (.fatal h.code) := by
  simp [State.finishStep, hh]

/-- A step that raised none pushes the pre-step snapshot and retires (R97). -/
theorem State.finishStep_running (pre : Snapshot) (hh : s.halt = none) :
    s.finishStep pre = ((s.pushHist pre).emit .stateChanged).answer .retired := by
  simp [State.finishStep, hh]

/-- The end of a step changes no snapshot element, not HALT, the configuration, the inputs or the requests. -/
theorem State.finishStep_keeps (pre : Snapshot) :
    (s.finishStep pre).toSnapshot = s.toSnapshot ∧ (s.finishStep pre).halt = s.halt ∧
      (s.finishStep pre).cfg = s.cfg ∧ (s.finishStep pre).keys = s.keys ∧ (s.finishStep pre).rnd = s.rnd ∧
      (s.finishStep pre).draws = s.draws ∧ (s.finishStep pre).host = s.host := by
  rcases hh : s.halt with _ | h
  · simp [s.finishStep_running pre hh, hh]
  · simp [s.finishStep_halted pre hh, hh]

/-! ### `step` -/

/-- R90: the five ways a step goes. -/
theorem State.stepWith_cases {t : State} {input : Input} (h : s.stepWith input = .next t) :
    (∃ e, s.halt = some e ∧ t = s.answer (.halted e.code)) ∨
    (∃ x, s.halt = none ∧ s.kw = some x ∧ t = (s.sample input).pollKey x) ∨
    (s.halt = none ∧ s.kw = none ∧ decodeWord s.fetch = none ∧
      t = ((s.sample input).advance.raise (.decodeError s.fetch s.pc)).answer (.fatal .decodeError)) ∨
    ∃ i u, s.halt = none ∧ s.kw = none ∧ decodeWord s.fetch = some i ∧
      exec i (s.sample input).advance = .next u ∧ t = u.finishStep s.snapshot := by
  unfold State.stepWith at h
  rcases hh : s.halt with _ | e
  · rcases hk : s.kw with _ | x
    · simp only [hh, hk, State.runInstr] at h
      rcases hd : decodeWord s.fetch with _ | i
      · have hd' : decodeWord (s.sample input).fetch = none := hd
        simp only [hd'] at h
        cases h
        exact .inr (.inr (.inl ⟨rfl, rfl, rfl, rfl⟩))
      · have hd' : decodeWord (s.sample input).fetch = some i := hd
        obtain ⟨u, hu⟩ := exec_completes i (s.sample input).advance
        simp only [hd', hu] at h
        cases h
        exact .inr (.inr (.inr ⟨i, u, rfl, rfl, rfl, hu, rfl⟩))
    · simp only [hh, hk] at h
      cases h
      exact .inr (.inl ⟨x, rfl, rfl, rfl⟩)
  · simp only [hh] at h
    cases h
    exact .inl ⟨e, rfl, rfl⟩

/-- Every step has a next state. -/
theorem State.stepWith_completes (input : Input) : ∃ t, s.stepWith input = .next t := by
  unfold State.stepWith
  rcases s.halt with _ | e
  · rcases s.kw with _ | x
    · simp only [State.runInstr]
      rcases decodeWord (s.sample input).fetch with _ | i
      · exact ⟨_, rfl⟩
      · obtain ⟨u, hu⟩ := exec_completes i (s.sample input).advance
        simp only [hu]
        exact ⟨_, rfl⟩
    · exact ⟨_, rfl⟩
  · exact ⟨_, rfl⟩

/-- R92: the two ways a poll goes. -/
theorem State.pollKey_cases (x : Reg) :
    (s.keys = 0 ∧ s.pollKey x = (s.pushHist s.snapshot).answer .noOpAwaitingKey) ∨
    (s.keys ≠ 0 ∧ s.pollKey x =
      ((((s.deliverKey x).setKw none).pushHist s.snapshot).emit .stateChanged).answer .retired) := by
  by_cases h : s.keys = 0
  · exact .inl ⟨h, if_pos h⟩
  · exact .inr ⟨h, if_neg h⟩

/-- R97, R205: a step that starts with HALT clear either ends with HALT clear and has pushed the pre-step
snapshot, or has changed nothing of the snapshot but PC and nothing of the history. -/
theorem State.stepWith_push_or_fatal {t : State} {input : Input} (h : s.stepWith input = .next t)
    (hh : s.halt = none) :
    (t.halt = none ∧ t.hist = pushHistory s.cfg.histCap s.hist s.snapshot) ∨
    ∃ e, t.halt = some e ∧ t.hist = s.hist ∧ t.toSnapshot = { s.toSnapshot with pc := s.pc + 2 } := by
  rcases s.stepWith_cases h with ⟨e, he, -⟩ | ⟨x, -, -, ht⟩ | ⟨-, -, -, ht⟩ | ⟨i, u, -, -, -, hu, ht⟩
  · simp [hh] at he
  · left
    rcases (s.sample input).pollKey_cases x with ⟨-, hp⟩ | ⟨-, hp⟩
    · rw [ht, hp]
      exact ⟨hh, rfl⟩
    · rw [ht, hp]
      exact ⟨hh, rfl⟩
  · right
    subst ht
    exact ⟨_, rfl, rfl, rfl⟩
  · obtain ⟨hhist, hcfg, -⟩ := exec_outside hu
    rcases exec_halt hu with hn | ⟨e, he⟩
    · left
      have hn' : u.halt = none := hn.trans hh
      rw [ht, u.finishStep_running _ hn']
      exact ⟨hn', by simp [hhist, hcfg]⟩
    · right
      refine ⟨e, ?_⟩
      rw [ht, he, State.finishStep_halted _ _ (h := e) rfl]
      exact ⟨rfl, rfl, rfl⟩

/-- A step keeps the configuration and the requests. -/
theorem State.stepWith_keeps {t : State} {input : Input} (h : s.stepWith input = .next t) :
    t.cfg = s.cfg ∧ t.host = s.host ∧ t.draws = s.draws := by
  rcases s.stepWith_cases h with ⟨e, -, ht⟩ | ⟨x, -, -, ht⟩ | ⟨-, -, -, ht⟩ | ⟨i, u, -, -, -, hu, ht⟩
  · subst ht
    simp
  · rcases (s.sample input).pollKey_cases x with ⟨-, hp⟩ | ⟨-, hp⟩ <;> rw [ht, hp] <;>
      simp [State.deliverKey]
  · subst ht
    simp
  · obtain ⟨-, hcfg, -, -, hd, hho, -⟩ := exec_outside hu
    obtain ⟨-, -, hc, -, -, hd', hho'⟩ := u.finishStep_keeps s.snapshot
    rw [ht, hc, hd', hho', hcfg, hd, hho]
    simp

/-- A halted step keeps everything but the result (R91). -/
theorem State.stepWith_halted (input : Input) {e : Halt} (hh : s.halt = some e) :
    s.stepWith input = .next (s.answer (.halted e.code)) := by
  simp [State.stepWith, hh]

/-! ### `tick` -/

@[simp] theorem State.endFrame_keeps :
    s.endFrame.halt = s.halt ∧ s.endFrame.hist = s.hist ∧ s.endFrame.cfg = s.cfg ∧ s.endFrame.host = s.host ∧
      s.endFrame.draws = s.draws ∧ s.endFrame.mem = s.mem ∧ s.endFrame.stack = s.stack ∧
      s.endFrame.sp = s.sp := by
  unfold State.endFrame State.cue State.countDown
  split <;> simp

/-- R210: a batch goes through one step; either that step halts the block and the batch ends, or it goes on. -/
theorem State.runBatch_cons {t : State} {input : Input} {rest : List Input}
    (h : s.runBatch (input :: rest) = .next t) :
    ∃ u, s.stepWith input = .next u ∧ ((u.halt ≠ none ∧ t = u) ∨ (u.halt = none ∧ u.runBatch rest = .next t)) := by
  obtain ⟨u, hu⟩ := s.stepWith_completes input
  refine ⟨u, hu, ?_⟩
  rw [State.runBatch] at h
  simp only [hu] at h
  rcases hh : u.halt with _ | e
  · simp only [hh] at h
    exact .inr ⟨rfl, h⟩
  · simp only [hh] at h
    cases h
    exact .inl ⟨by simp, rfl⟩

/-- Every batch has a next state. -/
theorem State.runBatch_completes (inputs : List Input) : ∃ t, s.runBatch inputs = .next t := by
  induction inputs generalizing s with
  | nil => exact ⟨_, rfl⟩
  | cons input rest ih =>
    obtain ⟨u, hu⟩ := s.stepWith_completes input
    rw [State.runBatch]
    simp only [hu]
    rcases hh : u.halt with _ | e
    · exact ih u
    · exact ⟨_, rfl⟩

/-- R210, R214: the three ways a tick goes. -/
theorem State.tickWith_cases {t : State} {inputs : List Input} (h : s.tickWith inputs = .next t) :
    (∃ e, s.halt = some e ∧ t = s.answer (.halted e.code)) ∨
    (s.halt = none ∧ inputs = [] ∧ t = s) ∨
    (s.halt = none ∧ inputs ≠ [] ∧ s.runBatch inputs = .next t) := by
  unfold State.tickWith at h
  rcases hh : s.halt with _ | e
  · simp only [hh] at h
    cases inputs with
    | nil =>
      cases h
      exact .inr (.inl ⟨rfl, rfl, rfl⟩)
    | cons input rest => exact .inr (.inr ⟨rfl, by simp, h⟩)
  · simp only [hh] at h
    cases h
    exact .inl ⟨e, rfl, rfl⟩

/-- Every tick has a next state. -/
theorem State.tickWith_completes (inputs : List Input) : ∃ t, s.tickWith inputs = .next t := by
  unfold State.tickWith
  rcases s.halt with _ | e
  · cases inputs with
    | nil => exact ⟨_, rfl⟩
    | cons input rest => exact s.runBatch_completes _
  · exact ⟨_, rfl⟩

/-! ### The other commands -/

/-- R250 changes the snapshot elements, HALT and HIST. -/
theorem State.resetAll_eq : s.resetAll =
    { s with toSnapshot := Snapshot.reset s.cfg, halt := none, hist := [] } := rfl

/-- R251, R252: the two ways a load goes. -/
theorem State.loadRom_cases (bytes : List Byte) :
    (maxRom < bytes.length ∧
      s.loadRom bytes = (s.raise (.invalidProgramLoad bytes.length)).answer .invalidProgramLoad) ∨
    (bytes.length ≤ maxRom ∧
      s.loadRom bytes = ((s.resetAll.copyRom 0x200 bytes).emit .stateChanged).answer .ok) := by
  by_cases h : maxRom < bytes.length
  · exact .inl ⟨h, by simp [State.loadRom, h]⟩
  · exact .inr ⟨by omega, by simp [State.loadRom, h]⟩

/-- R219: the two ways a rewind goes. -/
theorem State.rewindOnce_cases :
    (s.hist = [] ∧ s.rewindOnce = (s.emit .rewindEmpty).answer .empty) ∨
    ∃ p, s.hist.getLast? = some p ∧ s.rewindOnce = ((s.dropNewest.restore p).emit .stateChanged).answer .ok := by
  unfold State.rewindOnce
  rcases h : s.hist.getLast? with _ | p
  · exact .inl ⟨by simpa using h, rfl⟩
  · exact .inr ⟨p, rfl, rfl⟩

/-- R221: a restore that answers has met a well-formed value. -/
theorem State.restoreWith_next {t : State} {p : Snapshot} (h : s.restoreWith p = .next t) :
    p.wf s.cfg = true ∧ t = (s.restore p).emit .stateChanged := by
  unfold State.restoreWith at h
  split at h
  · next hw =>
    cases h
    exact ⟨hw, rfl⟩
  · cases h

/-- Taking a command off the queue changes nothing but the queue and the draw counter. -/
theorem State.takeCommand_eq : ∃ draws host, s.takeCommand = { s with draws := draws, host := host } := by
  unfold State.takeCommand
  split
  · exact ⟨_, s.host, rfl⟩
  · exact ⟨s.draws, _, rfl⟩

/-- One step of the machine: the command that was next, on a state whose outputs are cleared and that differs
from `s` in the host's ports alone. -/
theorem step_cases {s t : State} (h : step s = .next t) :
    ∃ r : State, (∃ draws host, r = { s with draws := draws, host := host, events := [], result := none }) ∧
      ((s.nextCommand = .reset ∧ t = r.resetAll) ∨
        (∃ bytes, s.nextCommand = .load bytes ∧ t = r.loadRom bytes) ∨
        (∃ input, s.nextCommand = .step input ∧ r.stepWith input = .next t) ∨
        (∃ inputs, s.nextCommand = .tick inputs ∧ r.tickWith inputs = .next t) ∨
        (s.nextCommand = .rewind ∧ t = r.rewindOnce) ∨
        (s.nextCommand = .getSnapshot ∧ t = r.answer (.snapshot r.snapshot)) ∨
        ∃ p, s.nextCommand = .restoreSnapshot p ∧ r.restoreWith p = .next t) := by
  obtain ⟨draws, host, hs⟩ := s.takeCommand_eq
  refine ⟨s.takeCommand.beginCommand, ⟨draws, host, by rw [hs]; rfl⟩, ?_⟩
  have h' : s.takeCommand.runCommand s.nextCommand = .next t := h
  rcases hc : s.nextCommand with _ | bytes | input | inputs | _ | _ | p <;> rw [hc] at h'
  · cases h'
    simp
  · cases h'
    simp
  · exact .inr (.inr (.inl ⟨input, rfl, h'⟩))
  · exact .inr (.inr (.inr (.inl ⟨inputs, rfl, h'⟩)))
  · cases h'
    simp
  · cases h'
    exact .inr (.inr (.inr (.inr (.inr (.inl ⟨rfl, rfl⟩)))))
  · exact .inr (.inr (.inr (.inr (.inr (.inr ⟨p, rfl, h'⟩)))))

end Sys2Proof.Machine
end

