-- ==== Sys2Proof/Laws/Decode.lean ====
section
/-! SUPPORT. The fields of a word made of nibbles, and the disjointness of the rows of the opcode map
(spec/30_encoding.md R71, R74). -/

namespace Sys2Proof

variable (c : Nibble) (x y : Reg) (n : Nibble) (nn : Byte) (nnn : Addr)

/-! ### Bits of an encoded word -/

theorem getLsbD_wordXyn (k : Nat) : (wordXyn c x y n).getLsbD k =
    if k < 4 then n.getLsbD k else if k - 4 < 4 then y.getLsbD (k - 4)
      else if k - 4 - 4 < 4 then x.getLsbD (k - 4 - 4) else c.getLsbD (k - 4 - 4 - 4) :=
  (BitVec.getLsbD_append (x := c ++ x ++ y) (y := n)).trans (by simp only [BitVec.getLsbD_append])

theorem getLsbD_wordXnn (k : Nat) : (wordXnn c x nn).getLsbD k =
    if k < 8 then nn.getLsbD k else if k - 8 < 4 then x.getLsbD (k - 8) else c.getLsbD (k - 8 - 4) :=
  (BitVec.getLsbD_append (x := c ++ x) (y := nn)).trans (by simp only [BitVec.getLsbD_append])

theorem getLsbD_wordNnn (k : Nat) : (wordNnn c nnn).getLsbD k =
    if k < 12 then nnn.getLsbD k else c.getLsbD (k - 12) :=
  BitVec.getLsbD_append (x := c) (y := nnn)

/-! ### Fields of an encoded word -/

@[simp] theorem fieldX_wordXyn : fieldX (wordXyn c x y n) = x := by
  apply BitVec.eq_of_getLsbD_eq
  intro k hk
  simp only [fieldX, BitVec.getLsbD_extractLsb', getLsbD_wordXyn]
  simp [hk, show ¬8 + k < 4 by omega, show ¬8 + k - 4 < 4 by omega, show 8 + k - 4 - 4 = k by omega]

@[simp] theorem fieldY_wordXyn : fieldY (wordXyn c x y n) = y := by
  apply BitVec.eq_of_getLsbD_eq
  intro k hk
  simp only [fieldY, BitVec.getLsbD_extractLsb', getLsbD_wordXyn]
  simp [hk]

@[simp] theorem fieldN_wordXyn : fieldN (wordXyn c x y n) = n := by
  apply BitVec.eq_of_getLsbD_eq
  intro k hk
  simp only [fieldN, BitVec.getLsbD_extractLsb', getLsbD_wordXyn]
  simp [hk]

@[simp] theorem fieldX_wordXnn : fieldX (wordXnn c x nn) = x := by
  apply BitVec.eq_of_getLsbD_eq
  intro k hk
  simp only [fieldX, BitVec.getLsbD_extractLsb', getLsbD_wordXnn]
  simp [hk]

@[simp] theorem fieldNn_wordXnn : fieldNn (wordXnn c x nn) = nn := by
  apply BitVec.eq_of_getLsbD_eq
  intro k hk
  simp only [fieldNn, BitVec.getLsbD_extractLsb', getLsbD_wordXnn]
  simp [hk]

@[simp] theorem fieldNnn_wordNnn : fieldNnn (wordNnn c nnn) = nnn := by
  apply BitVec.eq_of_getLsbD_eq
  intro k hk
  simp only [fieldNnn, BitVec.getLsbD_extractLsb', getLsbD_wordNnn]
  simp [hk]

/-! ### Masks on an encoded word (R72) -/

/-- The class nibble is all the NNN mask keeps. -/
theorem wordNnn_and_mask : wordNnn c nnn &&& 0xF000 = wordNnn c 0 := by
  apply BitVec.eq_of_getLsbD_eq
  intro k hk
  rw [BitVec.getLsbD_and, getLsbD_wordNnn, getLsbD_wordNnn]
  interval_cases k <;> simp

/-- The class nibble is all the XNN mask keeps. -/
theorem wordXnn_and_mask : wordXnn c x nn &&& 0xF000 = wordXnn c 0 0 := by
  apply BitVec.eq_of_getLsbD_eq
  intro k hk
  rw [BitVec.getLsbD_and, getLsbD_wordXnn, getLsbD_wordXnn]
  interval_cases k <;> simp

/-- The class nibble and the low byte are what the X mask keeps. -/
theorem wordXnn_and_mask_x : wordXnn c x nn &&& 0xF0FF = wordXnn c 0 nn := by
  apply BitVec.eq_of_getLsbD_eq
  intro k hk
  rw [BitVec.getLsbD_and, getLsbD_wordXnn, getLsbD_wordXnn]
  interval_cases k <;> simp

/-- The class nibble is all the XYN mask keeps. -/
theorem wordXyn_and_mask : wordXyn c x y n &&& 0xF000 = wordXyn c 0 0 0 := by
  apply BitVec.eq_of_getLsbD_eq
  intro k hk
  rw [BitVec.getLsbD_and, getLsbD_wordXyn, getLsbD_wordXyn]
  interval_cases k <;> simp

/-- The class nibble and the low nibble are what the XY mask keeps. -/
theorem wordXyn_and_mask_xy : wordXyn c x y n &&& 0xF00F = wordXyn c 0 0 n := by
  apply BitVec.eq_of_getLsbD_eq
  intro k hk
  rw [BitVec.getLsbD_and, getLsbD_wordXyn, getLsbD_wordXyn]
  interval_cases k <;> simp

/-! ### The rows -/

/-- Some bit fixed in both rows differs. -/
def Row.disjoint (r q : Row) : Bool :=
  r.pattern &&& (r.format.mask &&& q.format.mask) != q.pattern &&& (r.format.mask &&& q.format.mask)

/-- R74: "The rows are disjoint". -/
theorem rows_pairwise_disjoint : rows.Pairwise fun r q => r.disjoint q = true := by decide

/-- Two rows that differ in a fixed bit accept no common word. -/
theorem Row.not_both_accept {r q : Row} (h : r.disjoint q = true) {w : Word} (hr : r.accepts w = true) :
    q.accepts w = false := by
  simp only [Row.disjoint, bne_iff_ne, ne_eq, Row.accepts, beq_iff_eq] at h hr
  by_contra hq
  simp only [Row.accepts, Bool.not_eq_false, beq_iff_eq] at hq
  apply h
  rw [← hr, ← hq]
  apply BitVec.eq_of_getLsbD_eq
  intro k hk
  simp only [BitVec.getLsbD_and]
  cases w.getLsbD k <;> cases (r.format.mask).getLsbD k <;> cases (q.format.mask).getLsbD k <;> rfl

/-- Differing in a fixed bit is symmetric. -/
theorem Row.disjoint_symm {r q : Row} (h : r.disjoint q = true) : q.disjoint r = true := by
  simp only [Row.disjoint, bne_iff_ne, ne_eq] at *
  rw [BitVec.and_comm q.format.mask]
  exact fun he => h he.symm

/-- The first row that accepts a word is the only one. -/
theorem find_row {w : Word} {r : Row} (l : List Row) (h : l.Pairwise fun r q => r.disjoint q = true) (hr : r ∈ l)
    (hp : r.accepts w = true) : l.find? (fun q => q.accepts w) = some r := by
  induction l with
  | nil => simp at hr
  | cons a l ih =>
    obtain ⟨ha, hl⟩ := List.pairwise_cons.mp h
    rcases List.mem_cons.mp hr with rfl | hr'
    · simp [hp]
    · simp [Row.not_both_accept (Row.disjoint_symm (ha r hr')) hp, ih hl hr']

/-- R74: a word that a row accepts decodes as that row says. -/
theorem decodeWord_of_row {w : Word} {r : Row} (hr : r ∈ rows) (hp : r.accepts w = true) :
    decodeWord w = some (r.format.instr w) := by
  rw [decodeWord, find_row rows rows_pairwise_disjoint hr hp]
  rfl

end Sys2Proof
end

