-- ==== Sys2Proof/Laws/PerInstr.lean ====
section
/-! SUPPORT. For every instruction: the row of the opcode map (spec/30_encoding.md R75) that encodes it. -/

namespace Sys2Proof.Laws.RowOf

/-- A row of the map accepts the instruction's word and reads the instruction back from it. -/
def Statement (i : Instr) : Prop :=
  ∃ r ∈ rows, r.accepts (encodeWord i) = true ∧ r.format.instr (encodeWord i) = i

theorem cls : Statement .cls := ⟨⟨0x00E0, .fixed .cls⟩, by simp [rows, rowsAddress], by decide, rfl⟩

theorem ret : Statement .ret := ⟨⟨0x00EE, .fixed .ret⟩, by simp [rows, rowsAddress], by decide, rfl⟩

theorem jp (nnn : Addr) : Statement (.jp nnn) :=
  ⟨⟨0x1000, .nnn .jp⟩, by simp [rows, rowsAddress],
    by simp only [Row.accepts, Format.mask, encodeWord, wordNnn_and_mask]; decide, by simp [Format.instr, encodeWord]⟩

theorem call (nnn : Addr) : Statement (.call nnn) :=
  ⟨⟨0x2000, .nnn .call⟩, by simp [rows, rowsAddress],
    by simp only [Row.accepts, Format.mask, encodeWord, wordNnn_and_mask]; decide, by simp [Format.instr, encodeWord]⟩

theorem seNn (x : Reg) (nn : Byte) : Statement (.seNn x nn) :=
  ⟨⟨0x3000, .xnn .seNn⟩, by simp [rows, rowsImmediate],
    by simp only [Row.accepts, Format.mask, encodeWord, wordXnn_and_mask]; decide, by simp [Format.instr, encodeWord]⟩

theorem sneNn (x : Reg) (nn : Byte) : Statement (.sneNn x nn) :=
  ⟨⟨0x4000, .xnn .sneNn⟩, by simp [rows, rowsImmediate],
    by simp only [Row.accepts, Format.mask, encodeWord, wordXnn_and_mask]; decide, by simp [Format.instr, encodeWord]⟩

theorem seVy (x y : Reg) : Statement (.seVy x y) :=
  ⟨⟨0x5000, .xy .seVy⟩, by simp [rows, rowsRegister],
    by simp only [Row.accepts, Format.mask, encodeWord, wordXyn_and_mask_xy]; decide, by simp [Format.instr, encodeWord]⟩

theorem ldNn (x : Reg) (nn : Byte) : Statement (.ldNn x nn) :=
  ⟨⟨0x6000, .xnn .ldNn⟩, by simp [rows, rowsImmediate],
    by simp only [Row.accepts, Format.mask, encodeWord, wordXnn_and_mask]; decide, by simp [Format.instr, encodeWord]⟩

theorem addNn (x : Reg) (nn : Byte) : Statement (.addNn x nn) :=
  ⟨⟨0x7000, .xnn .addNn⟩, by simp [rows, rowsImmediate],
    by simp only [Row.accepts, Format.mask, encodeWord, wordXnn_and_mask]; decide, by simp [Format.instr, encodeWord]⟩

theorem ldVy (x y : Reg) : Statement (.ldVy x y) :=
  ⟨⟨0x8000, .xy .ldVy⟩, by simp [rows, rowsRegister],
    by simp only [Row.accepts, Format.mask, encodeWord, wordXyn_and_mask_xy]; decide, by simp [Format.instr, encodeWord]⟩

theorem orVy (x y : Reg) : Statement (.orVy x y) :=
  ⟨⟨0x8001, .xy .orVy⟩, by simp [rows, rowsRegister],
    by simp only [Row.accepts, Format.mask, encodeWord, wordXyn_and_mask_xy]; decide, by simp [Format.instr, encodeWord]⟩

theorem andVy (x y : Reg) : Statement (.andVy x y) :=
  ⟨⟨0x8002, .xy .andVy⟩, by simp [rows, rowsRegister],
    by simp only [Row.accepts, Format.mask, encodeWord, wordXyn_and_mask_xy]; decide, by simp [Format.instr, encodeWord]⟩

theorem xorVy (x y : Reg) : Statement (.xorVy x y) :=
  ⟨⟨0x8003, .xy .xorVy⟩, by simp [rows, rowsRegister],
    by simp only [Row.accepts, Format.mask, encodeWord, wordXyn_and_mask_xy]; decide, by simp [Format.instr, encodeWord]⟩

theorem addVy (x y : Reg) : Statement (.addVy x y) :=
  ⟨⟨0x8004, .xy .addVy⟩, by simp [rows, rowsRegister],
    by simp only [Row.accepts, Format.mask, encodeWord, wordXyn_and_mask_xy]; decide, by simp [Format.instr, encodeWord]⟩

theorem subVy (x y : Reg) : Statement (.subVy x y) :=
  ⟨⟨0x8005, .xy .subVy⟩, by simp [rows, rowsRegister],
    by simp only [Row.accepts, Format.mask, encodeWord, wordXyn_and_mask_xy]; decide, by simp [Format.instr, encodeWord]⟩

theorem shrVy (x y : Reg) : Statement (.shrVy x y) :=
  ⟨⟨0x8006, .xy .shrVy⟩, by simp [rows, rowsRegister],
    by simp only [Row.accepts, Format.mask, encodeWord, wordXyn_and_mask_xy]; decide, by simp [Format.instr, encodeWord]⟩

theorem subnVy (x y : Reg) : Statement (.subnVy x y) :=
  ⟨⟨0x8007, .xy .subnVy⟩, by simp [rows, rowsRegister],
    by simp only [Row.accepts, Format.mask, encodeWord, wordXyn_and_mask_xy]; decide, by simp [Format.instr, encodeWord]⟩

theorem shlVy (x y : Reg) : Statement (.shlVy x y) :=
  ⟨⟨0x800E, .xy .shlVy⟩, by simp [rows, rowsRegister],
    by simp only [Row.accepts, Format.mask, encodeWord, wordXyn_and_mask_xy]; decide, by simp [Format.instr, encodeWord]⟩

theorem sneVy (x y : Reg) : Statement (.sneVy x y) :=
  ⟨⟨0x9000, .xy .sneVy⟩, by simp [rows, rowsRegister],
    by simp only [Row.accepts, Format.mask, encodeWord, wordXyn_and_mask_xy]; decide, by simp [Format.instr, encodeWord]⟩

theorem ldI (nnn : Addr) : Statement (.ldI nnn) :=
  ⟨⟨0xA000, .nnn .ldI⟩, by simp [rows, rowsAddress],
    by simp only [Row.accepts, Format.mask, encodeWord, wordNnn_and_mask]; decide, by simp [Format.instr, encodeWord]⟩

theorem jpV0 (nnn : Addr) : Statement (.jpV0 nnn) :=
  ⟨⟨0xB000, .nnn .jpV0⟩, by simp [rows, rowsAddress],
    by simp only [Row.accepts, Format.mask, encodeWord, wordNnn_and_mask]; decide, by simp [Format.instr, encodeWord]⟩

theorem rnd (x : Reg) (nn : Byte) : Statement (.rnd x nn) :=
  ⟨⟨0xC000, .xnn .rnd⟩, by simp [rows, rowsImmediate],
    by simp only [Row.accepts, Format.mask, encodeWord, wordXnn_and_mask]; decide, by simp [Format.instr, encodeWord]⟩

theorem drw (x y : Reg) (n : Nibble) : Statement (.drw x y n) :=
  ⟨⟨0xD000, .xyn .drw⟩, by simp [rows, rowsImmediate],
    by simp only [Row.accepts, Format.mask, encodeWord, wordXyn_and_mask]; decide, by simp [Format.instr, encodeWord]⟩

theorem skp (x : Reg) : Statement (.skp x) :=
  ⟨⟨0xE09E, .x .skp⟩, by simp [rows, rowsSubOpcode],
    by simp only [Row.accepts, Format.mask, encodeWord, wordXnn_and_mask_x]; decide, by simp [Format.instr, encodeWord]⟩

theorem sknp (x : Reg) : Statement (.sknp x) :=
  ⟨⟨0xE0A1, .x .sknp⟩, by simp [rows, rowsSubOpcode],
    by simp only [Row.accepts, Format.mask, encodeWord, wordXnn_and_mask_x]; decide, by simp [Format.instr, encodeWord]⟩

theorem ldVxDt (x : Reg) : Statement (.ldVxDt x) :=
  ⟨⟨0xF007, .x .ldVxDt⟩, by simp [rows, rowsSubOpcode],
    by simp only [Row.accepts, Format.mask, encodeWord, wordXnn_and_mask_x]; decide, by simp [Format.instr, encodeWord]⟩

theorem ldVxK (x : Reg) : Statement (.ldVxK x) :=
  ⟨⟨0xF00A, .x .ldVxK⟩, by simp [rows, rowsSubOpcode],
    by simp only [Row.accepts, Format.mask, encodeWord, wordXnn_and_mask_x]; decide, by simp [Format.instr, encodeWord]⟩

theorem ldDtVx (x : Reg) : Statement (.ldDtVx x) :=
  ⟨⟨0xF015, .x .ldDtVx⟩, by simp [rows, rowsSubOpcode],
    by simp only [Row.accepts, Format.mask, encodeWord, wordXnn_and_mask_x]; decide, by simp [Format.instr, encodeWord]⟩

theorem ldStVx (x : Reg) : Statement (.ldStVx x) :=
  ⟨⟨0xF018, .x .ldStVx⟩, by simp [rows, rowsSubOpcode],
    by simp only [Row.accepts, Format.mask, encodeWord, wordXnn_and_mask_x]; decide, by simp [Format.instr, encodeWord]⟩

theorem addI (x : Reg) : Statement (.addI x) :=
  ⟨⟨0xF01E, .x .addI⟩, by simp [rows, rowsSubOpcode],
    by simp only [Row.accepts, Format.mask, encodeWord, wordXnn_and_mask_x]; decide, by simp [Format.instr, encodeWord]⟩

theorem ldF (x : Reg) : Statement (.ldF x) :=
  ⟨⟨0xF029, .x .ldF⟩, by simp [rows, rowsSubOpcode],
    by simp only [Row.accepts, Format.mask, encodeWord, wordXnn_and_mask_x]; decide, by simp [Format.instr, encodeWord]⟩

theorem ldB (x : Reg) : Statement (.ldB x) :=
  ⟨⟨0xF033, .x .ldB⟩, by simp [rows, rowsSubOpcode],
    by simp only [Row.accepts, Format.mask, encodeWord, wordXnn_and_mask_x]; decide, by simp [Format.instr, encodeWord]⟩

theorem ldMemVx (x : Reg) : Statement (.ldMemVx x) :=
  ⟨⟨0xF055, .x .ldMemVx⟩, by simp [rows, rowsSubOpcode],
    by simp only [Row.accepts, Format.mask, encodeWord, wordXnn_and_mask_x]; decide, by simp [Format.instr, encodeWord]⟩

theorem ldVxMem (x : Reg) : Statement (.ldVxMem x) :=
  ⟨⟨0xF065, .x .ldVxMem⟩, by simp [rows, rowsSubOpcode],
    by simp only [Row.accepts, Format.mask, encodeWord, wordXnn_and_mask_x]; decide, by simp [Format.instr, encodeWord]⟩

end Sys2Proof.Laws.RowOf
end

