-- ==== Sys2Proof/Tests/Slice0.lean ====
section
/-! SUPPORT. The model's own tests and the witnesses of the statements' hypotheses. Expected values are the spec's:
vectors T<n> and properties S<n> of spec/95_test_vectors.md, or the list of illegal words of
spec/30_encoding.md R76. -/

namespace Sys2Proof.Tests

open Sys2Proof Sys2Proof.Machine

/-- The outcome is a next state that passes the check. -/
def gives (o : Host.Outcome State Fault Refusal) (check : State → Bool) : Bool :=
  match o with
  | .next t => check t
  | .fault _ => false
  | .refused _ => false

/-- The start state of the vectors: the word at 0x200 and one step pending with the given inputs. -/
def placed (w : Word) (keys : BitVec 16 := 0) (rnd : Byte := 0) : State :=
  { State.reset.writeWord 0x200 w with host := [.step ⟨keys, rnd⟩] }

/-- V1, V2 and VF set. -/
def withV (s : State) (a b f : Byte) : State := ((s.setV 1 a).setV 2 b).setV VF f

/-- One step of a register vector leaves V1, V2 and VF at these values. -/
def regs (w : Word) (a b f a' b' f' : Byte) : Bool :=
  gives (step (withV (placed w) a b f)) fun t => t.getV 1 == a' && t.getV 2 == b' && t.getV VF == f'

/-- One step from this state ends with PC at this address, retired. -/
def goesTo (s : State) (pc : Addr) : Bool := gives (step s) fun t => t.pc == pc && t.result == some .retired

/-- The state after a run of one command that has a next state. -/
def after (s : State) (c : Command) : State :=
  match s.runCommand c with
  | .next t => t
  | .fault _ => s
  | .refused _ => s

/-- The lit cells in a list of (column, row) pairs: those and no others. -/
def litAre (s : State) (cells : List (Fin 64 × Fin 32)) : Bool :=
  (List.finRange 32).all fun row => (List.finRange 64).all fun col =>
    s.cell row col == cells.contains (col, row)

/-- Cells lit on a display. -/
def lit (s : State) (cells : List (Fin 64 × Fin 32)) : State :=
  s.setFb (cells.foldl (fun fb c => Framebuffer.toggle fb c.2 c.1) s.fb)

/-- A call stack of 16 slots in use. -/
def fullStack : State := { placed 0x2345 with sp := 16 }


/-! ### Decoding of written-out words (R71, R75) -/

/-- One word per row with a fixed word or a 12-bit address. -/
theorem test_decode_address :
    decodeWord 0x00E0 = some .cls ∧
    decodeWord 0x00EE = some .ret ∧
    decodeWord 0x1ABC = some (.jp 0xABC) ∧
    decodeWord 0x2345 = some (.call 0x345) ∧
    decodeWord 0xA123 = some (.ldI 0x123) ∧
    decodeWord 0xBFFF = some (.jpV0 0xFFF) := by decide

/-- One word per row with an immediate. -/
theorem test_decode_immediate :
    decodeWord 0x3142 = some (.seNn 1 0x42) ∧
    decodeWord 0x4142 = some (.sneNn 1 0x42) ∧
    decodeWord 0x61AB = some (.ldNn 1 0xAB) ∧
    decodeWord 0x7F01 = some (.addNn 15 0x01) ∧
    decodeWord 0xC10F = some (.rnd 1 0x0F) ∧
    decodeWord 0xD12F = some (.drw 1 2 15) := by decide

/-- One word per row with two registers. -/
theorem test_decode_registers :
    decodeWord 0x5120 = some (.seVy 1 2) ∧
    decodeWord 0x8120 = some (.ldVy 1 2) ∧
    decodeWord 0x8F11 = some (.orVy 15 1) ∧
    decodeWord 0x8122 = some (.andVy 1 2) ∧
    decodeWord 0x8123 = some (.xorVy 1 2) ∧
    decodeWord 0x8AB4 = some (.addVy 10 11) ∧
    decodeWord 0x8125 = some (.subVy 1 2) ∧
    decodeWord 0x8126 = some (.shrVy 1 2) ∧
    decodeWord 0x8127 = some (.subnVy 1 2) ∧
    decodeWord 0x812E = some (.shlVy 1 2) ∧
    decodeWord 0x9120 = some (.sneVy 1 2) := by decide

/-- One word per row with a sub-opcode byte. -/
theorem test_decode_sub_opcode :
    decodeWord 0xE19E = some (.skp 1) ∧
    decodeWord 0xE1A1 = some (.sknp 1) ∧
    decodeWord 0xF107 = some (.ldVxDt 1) ∧
    decodeWord 0xF10A = some (.ldVxK 1) ∧
    decodeWord 0xF115 = some (.ldDtVx 1) ∧
    decodeWord 0xF118 = some (.ldStVx 1) ∧
    decodeWord 0xF11E = some (.addI 1) ∧
    decodeWord 0xF129 = some (.ldF 1) ∧
    decodeWord 0xF933 = some (.ldB 9) ∧
    decodeWord 0xF255 = some (.ldMemVx 2) ∧
    decodeWord 0xFF65 = some (.ldVxMem 15) := by decide

/-- The table word is big-endian in memory: the first byte is bits 15 to 8 (R54). -/
theorem test_table_word :
    decodeTableWord 16 0x1ABC = some (.jp 0xABC) ∧ encode (.jp 0xABC) = [0x1A, 0xBC] := by decide

/-! ### Ill-formed terms are refused -/

/-- T8, T9: class 0. -/
theorem test_illegal_class_0 :
    ([0x0000, 0x00E1, 0x00EF, 0x00FE, 0x0123, 0x0FFF] : List Word).all (fun w => !Word.legal w && (decodeWord w).isNone) = true := by decide

/-- T10: classes 5 and 9 with a low nibble that is not 0. -/
theorem test_illegal_class_5_9 :
    ([0x5121, 0x512F, 0x9AB1] : List Word).all (fun w => !Word.legal w && (decodeWord w).isNone) = true := by decide

/-- T11: class 8. -/
theorem test_illegal_class_8 :
    ([0x8128, 0x8129, 0x812A, 0x812B, 0x812C, 0x812D, 0x812F] : List Word).all (fun w => !Word.legal w && (decodeWord w).isNone) = true := by decide

/-- T12: class E. -/
theorem test_illegal_class_E :
    ([0xE09F, 0xE1A0, 0xE000, 0xEFFF] : List Word).all (fun w => !Word.legal w && (decodeWord w).isNone) = true := by decide

/-- T13: class F. -/
theorem test_illegal_class_F :
    ([0xF000, 0xF108, 0xF10B, 0xF116, 0xF11F, 0xF130, 0xF156, 0xF175, 0xF185, 0xFFFF] : List Word).all (fun w => !Word.legal w && (decodeWord w).isNone) = true := by decide

/-- R78: operand fields are never checked, so every instruction term is well formed; its word is legal. -/
theorem test_instr_well_formed :
    Instr.wellFormed (.drw 15 15 15) = true ∧ Word.legal (encodeWord (.drw 15 15 15)) = true := by decide

/-- R221: SP above STACK_CAP, a stack of another length and a memory out of form are each ill formed. -/
theorem test_snapshot_ill_formed :
    Snapshot.wf defaultConfig (Snapshot.reset defaultConfig) = true ∧
    Snapshot.wf defaultConfig { Snapshot.reset defaultConfig with sp := 17 } = false ∧
    Snapshot.wf defaultConfig { Snapshot.reset defaultConfig with stack := [] } = false ∧
    Snapshot.wf defaultConfig { Snapshot.reset defaultConfig with mem := [(0x300, 1), (0x200, 1)] } = false ∧
    Snapshot.wf defaultConfig { Snapshot.reset defaultConfig with mem := [(0x300, 0)] } = false ∧
    Snapshot.wf defaultConfig { Snapshot.reset defaultConfig with mem := [(4096, 1)] } = false := by decide

/-- R5: STACK_CAP outside 12 to 16 and HIST_CAP 0 are ill formed. -/
theorem test_config_ill_formed :
    defaultConfig.wf = true ∧ Config.wf { defaultConfig with stackCap := 11 } = false ∧
    Config.wf { defaultConfig with stackCap := 17 } = false ∧ Config.wf { defaultConfig with histCap := 0 } = false := by decide

/-! ### Control flow -/

/-- T20, and T21 (to itself). -/
theorem test_jp :
    goesTo (placed 0x1ABC) 0xABC = true ∧ goesTo (placed 0x1200) 0x200 = true := by decide

/-- T22. -/
theorem test_call :
    gives (step (placed 0x2345)) (fun t => t.stackAt 0 == 0x202 && t.sp == 1 && t.pc == 0x345) = true := by decide

/-- T25. -/
theorem test_call_overflow :
    gives (step fullStack) (fun t => t.halt == some (.stackOverflow 0x2345 0x200) && t.pc == 0x202 &&
      t.sp == 16 && t.stack == fullStack.stack && t.hist == [] && t.result == some (.fatal .stackOverflow)) = true := by decide

/-- T26: the slot keeps its value. -/
theorem test_ret :
    gives (step { placed 0x00EE with sp := 1, stack := 0x206 :: List.replicate 15 0 })
      (fun t => t.sp == 0 && t.pc == 0x206 && t.stackAt 0 == 0x206) = true := by decide

/-- T27. -/
theorem test_ret_underflow :
    gives (step (placed 0x00EE)) (fun t => t.halt == some (.stackUnderflow 0x00EE 0x200) && t.pc == 0x202 &&
      t.sp == 0 && t.events == [.fatal (.stackUnderflow 0x00EE 0x200)]) = true := by decide

/-- T28, T29: the sum wraps. -/
theorem test_jp_v0 :
    goesTo ((placed 0xB300).setV 0 0x10) 0x310 = true ∧ goesTo ((placed 0xBFFF).setV 0 0xFF) 0x0FE = true := by decide

/-- T30, T31; T39b wraps. -/
theorem test_se_nn :
    goesTo ((placed 0x3142).setV 1 0x42) 0x204 = true ∧ goesTo ((placed 0x3142).setV 1 0x41) 0x202 = true ∧
    goesTo ((State.writeWord (placed 0x0000) 0xFFE 0x3000).setPc 0xFFE) 0x002 = true := by decide

/-- T32, T33. -/
theorem test_sne_nn :
    goesTo ((placed 0x4142).setV 1 0x42) 0x202 = true ∧ goesTo ((placed 0x4142).setV 1 0x41) 0x204 = true := by decide

/-- T34, T35, T36. -/
theorem test_se_vy :
    goesTo (withV (placed 0x5120) 7 7 0) 0x204 = true ∧ goesTo (withV (placed 0x5120) 7 8 0) 0x202 = true ∧
    goesTo ((placed 0x5330).setV 3 9) 0x204 = true := by decide

/-- T37, T38, T39. -/
theorem test_sne_vy :
    goesTo (withV (placed 0x9120) 7 8 0) 0x204 = true ∧ goesTo (withV (placed 0x9120) 7 7 0) 0x202 = true ∧
    goesTo ((placed 0x9330).setV 3 9) 0x202 = true := by decide

/-! ### Register instructions: V1, V2, VF before and after -/

/-- T60, T61. -/
theorem test_ld_nn :
    regs 0x61AB 0x00 0x00 0x00 0xAB 0x00 0x00 = true ∧
    regs 0x6F77 0x00 0x00 0x00 0x00 0x00 0x77 = true := by decide

/-- T63, T63b. -/
theorem test_add_nn :
    regs 0x71FF 0x01 0x00 0x55 0x00 0x00 0x55 = true ∧
    regs 0x7F01 0x00 0x00 0xFF 0x00 0x00 0x00 = true := by decide

/-- T70. -/
theorem test_ld_vy :
    regs 0x8120 0x01 0x9C 0x00 0x9C 0x9C 0x00 = true := by decide

/-- T71, T75. -/
theorem test_or :
    regs 0x8121 0xF0 0x0F 0x55 0xFF 0x0F 0x55 = true ∧
    regs 0x8F11 0x0F 0x00 0xF0 0x0F 0x00 0xFF = true := by decide

/-- T72. -/
theorem test_and :
    regs 0x8122 0xF3 0x3F 0x55 0x33 0x3F 0x55 = true := by decide

/-- T73, T74. -/
theorem test_xor :
    regs 0x8123 0xFF 0x0F 0x55 0xF0 0x0F 0x55 = true ∧
    regs 0x8113 0xA5 0x00 0x00 0x00 0x00 0x00 = true := by decide

/-- T40, T41, T41a, T42. -/
theorem test_add_vy :
    regs 0x8124 0x10 0x20 0x55 0x30 0x20 0x00 = true ∧
    regs 0x8124 0xFF 0x01 0x00 0x00 0x01 0x01 = true ∧
    regs 0x8124 0xFE 0x01 0x01 0xFF 0x01 0x00 = true ∧
    regs 0x8114 0x80 0x00 0x00 0x00 0x00 0x01 = true := by decide

/-- T43, T44, T44b: VF as destination and as operand. -/
theorem test_add_vy_flag :
    regs 0x8F14 0x20 0x00 0xF0 0x20 0x00 0x01 = true ∧
    regs 0x81F4 0xF0 0x00 0x20 0x10 0x00 0x01 = true ∧
    regs 0x8FF4 0x00 0x00 0x90 0x00 0x00 0x01 = true := by decide

/-- T45, T46, T47, T48. -/
theorem test_sub :
    regs 0x8125 0x30 0x10 0x00 0x20 0x10 0x01 = true ∧
    regs 0x8125 0x10 0x10 0x00 0x00 0x10 0x01 = true ∧
    regs 0x8125 0x10 0x30 0x01 0xE0 0x30 0x00 = true ∧
    regs 0x8125 0x00 0x01 0x00 0xFF 0x01 0x00 = true := by decide

/-- T50, T51, T52. -/
theorem test_sub_flag :
    regs 0x8F15 0x03 0x00 0x05 0x03 0x00 0x01 = true ∧
    regs 0x8F15 0x05 0x00 0x03 0x05 0x00 0x00 = true ∧
    regs 0x81F5 0x05 0x00 0x09 0xFC 0x00 0x00 = true := by decide

/-- T53, T54, T55. -/
theorem test_shr :
    regs 0x8126 0xFF 0x05 0x00 0x02 0x05 0x01 = true ∧
    regs 0x8126 0xFF 0x04 0x01 0x02 0x04 0x00 = true ∧
    regs 0x8116 0x81 0x00 0x00 0x40 0x00 0x01 = true := by decide

/-- T56, T57. -/
theorem test_shr_flag :
    regs 0x8F26 0x00 0x07 0x00 0x00 0x07 0x01 = true ∧
    regs 0x81F6 0x00 0x00 0x03 0x01 0x00 0x01 = true := by decide

/-- T59, T59a, T59b. -/
theorem test_subn :
    regs 0x8127 0x10 0x30 0x00 0x20 0x30 0x01 = true ∧
    regs 0x8127 0x10 0x10 0x00 0x00 0x10 0x01 = true ∧
    regs 0x8127 0x30 0x10 0x01 0xE0 0x10 0x00 = true := by decide

/-- T59d. -/
theorem test_subn_flag :
    regs 0x8F17 0x05 0x00 0x03 0x05 0x00 0x01 = true := by decide

/-- T64, T65, T66. -/
theorem test_shl :
    regs 0x812E 0x00 0x81 0x00 0x02 0x81 0x01 = true ∧
    regs 0x812E 0xFF 0x41 0x01 0x82 0x41 0x00 = true ∧
    regs 0x811E 0xC0 0x00 0x00 0x80 0x00 0x01 = true := by decide

/-- T67, T68. -/
theorem test_shl_flag :
    regs 0x8F2E 0x00 0xC1 0x00 0x00 0xC1 0x01 = true ∧
    regs 0x81FE 0x00 0x00 0x80 0x00 0x00 0x01 = true := by decide

/-- T76, T79. -/
theorem test_rnd :
    gives (step (placed 0xC10F 0 0xA7)) (fun t => t.getV 1 == 0x07) = true ∧
    gives (step (placed 0xCF3C 0 0xFF)) (fun t => t.getV VF == 0x3C) = true := by decide

/-! ### Address register and memory -/

/-- T81. -/
theorem test_ld_i :
    gives (step (placed 0xAFFF)) (fun t => t.i == 0x0FFF && t.pc == 0x202) = true := by decide

/-- T83, T84, T85. -/
theorem test_add_i :
    gives (step (((placed 0xF11E).setV 1 0x01).setI 0x0FFF)) (fun t => t.i == 0x1000) = true ∧
    gives (step ((withV (placed 0xF11E) 0x01 0 0x55).setI 0xFFFF)) (fun t => t.i == 0x0000 && t.getV VF == 0x55) = true ∧
    gives (step (((placed 0xF11E).setV 1 0xFF).setI 0xFF80)) (fun t => t.i == 0x007F) = true := by decide

/-- T86, T87. -/
theorem test_ld_f :
    gives (step ((placed 0xF129).setV 1 0x0A)) (fun t => t.i == 0x0032) = true ∧
    gives (step ((placed 0xF129).setV 1 0x1F)) (fun t => t.i == 0x004B) = true := by decide

/-- T89. -/
theorem test_bcd :
    gives (step (((placed 0xF133).setV 1 254).setI 0x300)) (fun t =>
      t.readByte 0x300 == 2 && t.readByte 0x301 == 5 && t.readByte 0x302 == 4 && t.i == 0x300) = true := by decide

/-- T94: the font is overwritten. -/
theorem test_bcd_wraps :
    gives (step (((placed 0xF133).setV 1 123).setI 0x0FFF)) (fun t =>
      t.readByte 0xFFF == 1 && t.readByte 0x000 == 2 && t.readByte 0x001 == 3) = true := by decide

/-- T96. -/
theorem test_store_block :
    gives (step (((((placed 0xF255).setV 0 0x11).setV 1 0x22).setV 2 0x33).setV 3 0x44 |>.setI 0x300)) (fun t =>
      t.readByte 0x300 == 0x11 && t.readByte 0x301 == 0x22 && t.readByte 0x302 == 0x33 &&
      t.readByte 0x303 == 0 && t.i == 0x303) = true := by decide

/-- T99. -/
theorem test_store_block_wraps :
    gives (step ((((placed 0xF255).setV 0 0x11).setV 1 0x22).setV 2 0x33 |>.setI 0x0FFE)) (fun t =>
      t.readByte 0xFFE == 0x11 && t.readByte 0xFFF == 0x22 && t.readByte 0x000 == 0x33 && t.i == 0x1001) = true := by decide

/-- T102: glyph 0 of the font. -/
theorem test_load_block :
    gives (step ((placed 0xF465).setV 5 0x77)) (fun t =>
      t.getV 0 == 0xF0 && t.getV 1 == 0x90 && t.getV 3 == 0x90 && t.getV 4 == 0xF0 && t.getV 5 == 0x77 && t.i == 5) = true := by decide

/-- T104. -/
theorem test_load_block_wraps :
    gives (step (((placed 0xF265).writeByte 0xFFF 0xAA).setI 0x0FFF)) (fun t =>
      t.getV 0 == 0xAA && t.getV 1 == 0xF0 && t.getV 2 == 0x90 && t.i == 0x1002) = true := by decide

/-! ### Display -/

/-- T110. -/
theorem test_cls :
    gives (step ((lit (placed 0x00E0) [(0, 0), (63, 31)]).setV VF 1)) (fun t => litAre t [] && t.getV VF == 1) = true := by decide +kernel

/-- T113. -/
theorem test_drw_collision :
    gives (step (lit (((placed 0xD011).writeByte 0x300 0xC0).setI 0x300) [(1, 0), (5, 5)]))
      (fun t => litAre t [(0, 0), (5, 5)] && t.getV VF == 1) = true := by decide +kernel

/-- T117: both wraps. -/
theorem test_drw_wraps :
    gives (step ((((placed 0xD011).writeByte 0x300 0x81).setI 0x300).setV 0 0xFF |>.setV 1 0xFF))
      (fun t => litAre t [(63, 31), (6, 31)] && t.getV VF == 0) = true := by decide +kernel

/-! ### Keypad and timers -/

/-- T140, T141, T142. -/
theorem test_skp :
    goesTo ((placed 0xE19E 0x0400).setV 1 0x0A) 0x204 = true ∧ goesTo ((placed 0xE19E 0x0200).setV 1 0x0A) 0x202 = true ∧
    goesTo ((placed 0xE19E 0x0400).setV 1 0x1A) 0x204 = true := by decide

/-- T143, T144, T145. -/
theorem test_sknp :
    goesTo ((placed 0xE1A1 0x0400).setV 1 0x0A) 0x202 = true ∧ goesTo ((placed 0xE1A1 0x0000).setV 1 0x0A) 0x204 = true ∧
    goesTo ((placed 0xE1A1 0x8000).setV 1 0x0F) 0x202 = true := by decide

/-- T146. -/
theorem test_key_wait :
    gives (step ((placed 0xF10A).setV 1 0x77)) (fun t =>
      t.kw == some 1 && t.getV 1 == 0x77 && t.pc == 0x202 && t.result == some .retired) = true := by decide

/-- T148. -/
theorem test_key_now :
    gives (step (placed 0xF10A 0x8090)) (fun t =>
      t.kw == none && t.getV 1 == 0x04 && t.events == [.keyConsume 4, .stateChanged]) = true := by decide

/-- T152. -/
theorem test_ld_vx_dt :
    gives (step ((placed 0xF107).setDt 0x2A)) (fun t => t.getV 1 == 0x2A && t.dt == 0x2A) = true := by decide

/-- T153. -/
theorem test_ld_dt_vx :
    gives (step ((placed 0xF115).setV 1 0x3C)) (fun t => t.dt == 0x3C) = true := by decide

/-- T154. -/
theorem test_ld_st_vx :
    gives (step ((placed 0xF118).setV 1 0x1E)) (fun t => t.st == 0x1E && t.events == [.stateChanged]) = true := by decide

/-! ### Commands -/

/-- T8 in full. -/
theorem test_decode_error :
    gives (step (placed 0x0000)) (fun t => t.halt == some (.decodeError 0x0000 0x200) && t.pc == 0x202 &&
      t.hist == [] && t.events == [.fatal (.decodeError 0x0000 0x200)] && t.result == some (.fatal .decodeError)) = true := by decide

/-- T150, T151: polls. -/
theorem test_poll :
    gives (step { (placed 0x0000).setPc 0x202 with kw := some 1 }) (fun t => t.pc == 0x202 && t.kw == some 1 &&
      t.hist.length == 1 && t.events == [] && t.result == some .noOpAwaitingKey) = true ∧
    gives (step { (placed 0x0000 0x0088).setPc 0x202 with kw := some 1 }) (fun t => t.pc == 0x202 && t.kw == none &&
      t.getV 1 == 3 && t.events == [.keyConsume 3, .stateChanged]) = true := by decide

/-- T160, the first tick. -/
theorem test_tick :
    gives (step { placed 0x1200 with dt := 2, st := 1, host := [.tick [⟨0, 0⟩]] }) (fun t =>
      t.dt == 1 && t.st == 0 && t.hist.length == 1 &&
      t.events == [.stateChanged, .frame (List.replicate 2048 false)]) = true := by decide +kernel

/-- T162: a tick of no steps. -/
theorem test_tick_zero :
    gives (step { placed 0x1200 with dt := 5, host := [.tick []] }) (fun t =>
      t.dt == 5 && t.hist == [] && t.events == []) = true := by decide

/-- T163, its last step: no decrement, no frame. -/
theorem test_tick_fatal :
    gives (step { placed 0x00E1 with dt := 5, host := [.tick [⟨0, 0⟩, ⟨0, 0⟩]] }) (fun t =>
      t.dt == 5 && t.pc == 0x202 && t.halt == some (.decodeError 0x00E1 0x200) &&
      t.events == [.fatal (.decodeError 0x00E1 0x200)] && t.result == some (.fatal .decodeError)) = true := by decide

/-- S9: the bytes of the program and the fetch of its first word. -/
theorem test_load :
    gives (State.reset.runCommand (.load [0x60, 0x05, 0x70, 0x03])) (fun t => t.fetch == 0x6005 && t.readByte 0x203 == 0x03 &&
      t.pc == 0x200 && t.result == some .ok) = true := by decide

/-- T132: a rewind with no history. -/
theorem test_rewind_empty :
    gives (step { State.reset with host := [.rewind] }) (fun t => t.events == [.rewindEmpty] && t.result == some .empty &&
      t.toSnapshot == State.reset.toSnapshot) = true := by decide

/-- With no request pending the step runs the placed word (log 26). -/
theorem test_with_fetch_word :
    gives (step (State.reset.withFetchWord 16 0x1ABC)) (fun t => t.pc == 0xABC) = true := by decide

/-! ### Witnesses: the hypotheses of each statement are met, clause by clause -/

theorem witness_EncodeOfDecodeIsIdentity :
    decodeWord 0x1ABC = some (.jp 0xABC) := by decide

theorem witness_OpcodeRowsDecodeUniquely :
    (∃ r ∈ rows, r.accepts 0x00E0 = true) ∧ (∃ r ∈ rows, r.accepts 0xFF65 = true) ∧
    ∀ r ∈ rows, r.accepts 0x0000 = false := by
  refine ⟨⟨⟨0x00E0, .fixed .cls⟩, by simp [rows, rowsAddress], by decide⟩,
    ⟨⟨0xF065, .x .ldVxMem⟩, by simp [rows, rowsSubOpcode], by decide⟩, by decide⟩

theorem witness_JpSetsPc :
    (0x1FFF : Word) &&& 0xF000 = 0x1000 := by decide

theorem witness_JpV0AddsV0 :
    (0xBFFF : Word) &&& 0xF000 = 0xB000 := by decide

/-- No slot, all but one slot and every slot in use; a slot other than SP. -/
theorem witness_CallPushesOrOverflows :
    ((0x2FFF : Word) &&& 0xF000 = 0x2000) ∧
    (State.reset.inv = true ∧ State.reset.sp.toNat ≠ State.reset.cfg.stackCap) ∧
    (State.inv { State.reset with sp := 15 } = true ∧ (15 : BitVec 5).toNat ≠ State.reset.cfg.stackCap) ∧
    (fullStack.inv = true ∧ fullStack.sp.toNat = fullStack.cfg.stackCap) ∧ (1 : BitVec 5) ≠ State.reset.sp := by decide

theorem witness_RetPopsOrUnderflows :
    (0x00EE : Word) &&& 0xFFFF = 0x00EE ∧ fullStack.sp ≠ 0 ∧ State.reset.sp = 0 := by decide

theorem witness_CallThenReturnRestoresPc :
    ∃ t : State, State.reset.inv = true ∧ State.reset.sp.toNat ≠ State.reset.cfg.stackCap ∧
    exec (.call 0x300) State.reset = .next t ∧ t.sp = t.sp ∧ ∀ k, t.stackAt k = t.stackAt k := ⟨_, by decide, by decide, rfl, rfl, fun _ => rfl⟩

theorem witness_SkipsFollowTheirConditions :
    (0x3FFF : Word) &&& 0xF000 = 0x3000 ∧ (0x4FFF : Word) &&& 0xF000 = 0x4000 ∧ (0x5FF0 : Word) &&& 0xF00F = 0x5000 ∧ (0x9FF0 : Word) &&& 0xF00F = 0x9000 := by decide

theorem witness_LoadsWriteVx :
    (0x6FFF : Word) &&& 0xF000 = 0x6000 ∧ (0x8FF0 : Word) &&& 0xF00F = 0x8000 := by decide

theorem witness_AddImmediateWrapsWithoutFlag :
    (0x7FFF : Word) &&& 0xF000 = 0x7000 := by decide

theorem witness_LogicCombinesBitsWithoutFlag :
    (0x8FF1 : Word) &&& 0xF00F = 0x8001 ∧ (0x8FF2 : Word) &&& 0xF00F = 0x8002 ∧ (0x8FF3 : Word) &&& 0xF00F = 0x8003 := by decide

theorem witness_AddRegistersSetsCarry :
    (0x8FF4 : Word) &&& 0xF00F = 0x8004 ∧ (0 : Reg) ≠ VF ∧ (14 : Reg) ≠ VF := by decide

theorem witness_SubtractionsSetNoBorrow :
    (0x8FF5 : Word) &&& 0xF00F = 0x8005 ∧ (0x8FF7 : Word) &&& 0xF00F = 0x8007 ∧ (0 : Reg) ≠ VF ∧ (14 : Reg) ≠ VF := by decide

theorem witness_ShiftsMoveVyAndSetFlag :
    (0x8FF6 : Word) &&& 0xF00F = 0x8006 ∧ (0x8FFE : Word) &&& 0xF00F = 0x800E ∧ (0 : Reg) ≠ VF ∧ (14 : Reg) ≠ VF := by decide

theorem witness_RandomIsInputUnderMask :
    (0xCFFF : Word) &&& 0xF000 = 0xC000 := by decide

theorem witness_LdISetsIndex :
    (0xAFFF : Word) &&& 0xF000 = 0xA000 := by decide

theorem witness_AddIWrapsAtSixteenBits :
    (0xFF1E : Word) &&& 0xF0FF = 0xF01E := by decide

theorem witness_LdFSelectsGlyph :
    (0xFF29 : Word) &&& 0xF0FF = 0xF029 := by decide

theorem witness_BcdStoresThreeDigits :
    (0xFF33 : Word) &&& 0xF0FF = 0xF033 ∧
    (3 : Addr) ≠ State.reset.ea 0 ∧ (3 : Addr) ≠ State.reset.ea 1 ∧ (3 : Addr) ≠ State.reset.ea 2 := by decide

theorem witness_BlockStoreWritesRegisters :
    (0xFF55 : Word) &&& 0xF0FF = 0xF055 ∧ (0 : Reg).toNat ≤ (0 : Reg).toNat ∧ (15 : Reg).toNat ≤ (15 : Reg).toNat ∧
    (∀ k ≤ 15, (16 : Addr) ≠ State.reset.ea k) := by decide

theorem witness_BlockLoadReadsRegisters :
    (0xFF65 : Word) &&& 0xF0FF = 0xF065 ∧ (0 : Reg).toNat ≤ (0 : Reg).toNat ∧ (15 : Reg).toNat ≤ (15 : Reg).toNat ∧
    (14 : Reg).toNat < (15 : Reg).toNat := by decide

theorem witness_StoreIsSeenByTheNextFetch :
    ∃ t : State, 1 ≤ (1 : Reg).toNat ∧ exec (.ldMemVx 1) State.reset = .next t := ⟨_, by decide, rfl⟩

theorem witness_ClsBlanksDisplay :
    (0x00E0 : Word) &&& 0xFFFF = 0x00E0 := by decide

/-- At I = 0 the first byte is 0xF0, so cell (0, 0) is covered; a sprite of no rows covers nothing. -/
theorem witness_DrwInvertsCoveredCells :
    (0xDFFF : Word) &&& 0xF000 = 0xD000 ∧ SpriteCovers State.reset 0 0 1 0 0 ∧ ¬SpriteCovers State.reset 0 0 0 0 0 := by
  refine ⟨by decide, ⟨0, 0, by decide, by decide, by decide, by decide, by decide⟩, ?_⟩
  rintro ⟨r, c, h, -⟩
  exact absurd h (by omega)

theorem witness_DrwFlagsCollision :
    ∃ t : State, exec (.drw 0 0 1) (lit State.reset [(0, 0)]) = .next t ∧
    ((lit State.reset [(0, 0)]).cell 0 0 = true ∧ t.cell 0 0 = false) ∧
    ∃ u : State, exec (.drw 0 0 0) State.reset = .next u ∧
      ¬∃ row col, State.reset.cell row col = true ∧ u.cell row col = false := by
  refine ⟨_, rfl, by decide +kernel, _, rfl, ?_⟩
  rintro ⟨row, col, h, -⟩
  revert row col
  decide +kernel

theorem witness_DrawingTwiceRestoresDisplay :
    ∃ t u : State, (0 : Reg) ≠ VF ∧ (1 : Reg) ≠ VF ∧ exec (.drw 0 1 2) State.reset = .next t ∧
    exec (.drw 0 1 2) t = .next u ∧ ∀ row col, State.reset.cell row col = false := ⟨_, _, by decide, by decide, rfl, rfl, by decide +kernel⟩

theorem witness_KeySkipsFollowTheKey :
    (0xEF9E : Word) &&& 0xF0FF = 0xE09E ∧ (0xEFA1 : Word) &&& 0xF0FF = 0xE0A1 := by decide

theorem witness_KeyReadWaitsOrDelivers :
    (0xFF0A : Word) &&& 0xF0FF = 0xF00A ∧ State.reset.keys = 0 ∧ (State.reset.sample ⟨1, 0⟩).keys ≠ 0 ∧
    (State.reset.sample ⟨0x8000, 0⟩).keys ≠ 0 := by decide

theorem witness_TimerInstructionsMoveBytes :
    (0xFF07 : Word) &&& 0xF0FF = 0xF007 ∧ (0xFF15 : Word) &&& 0xF0FF = 0xF015 ∧ (0xFF18 : Word) &&& 0xF0FF = 0xF018 := by decide

theorem witness_RegistersChangeOnlyAsNamed :
    (∃ t : State, exec (.addVy 1 2) State.reset = .next t ∧ Instr.isDest 3 (.addVy 1 2) = false ∧ (3 : Reg) ≠ VF ∧
      Instr.setsFlag (.addVy 1 2) = true) ∧
    ∃ t : State, exec (.ldNn 1 2) State.reset = .next t ∧ Instr.isDest VF (.ldNn 1 2) = false ∧
      Instr.setsFlag (.ldNn 1 2) = false := ⟨⟨_, rfl, by decide, by decide, by decide⟩, _, rfl, by decide, by decide⟩

theorem witness_EachPartHasItsWriters :
    ∃ t : State, exec (.ldB 1) State.reset = .next t ∧ Part.registers ∉ Instr.writes (.ldB 1) := ⟨_, rfl, by decide⟩

theorem witness_InputsAreReadByTheirInstructionsOnly :
    (∃ t : State, exec (.rnd 1 2) State.reset = .next t ∧ Instr.readsKeys (.rnd 1 2) = false) ∧
    ∃ t : State, exec (.skp 1) State.reset = .next t ∧ Instr.readsRnd (.skp 1) = false := ⟨⟨_, rfl, by decide⟩, _, rfl, by decide⟩

/-- A step that retires and a step that is fatal. -/
theorem witness_StepRunsDecodedInstruction :
    (∃ t : State, (placed 0x1ABC).mode = .running ∧ (placed 0x1ABC).nextCommand = .step ⟨0, 0⟩ ∧
      decodeWord (wordOfBytes ((placed 0x1ABC).readByte (placed 0x1ABC).pc) ((placed 0x1ABC).readByte ((placed 0x1ABC).pc + 1))) =
        some (.jp 0xABC) ∧
      exec (.jp 0xABC) (((placed 0x1ABC).takeCommand.beginCommand.sample ⟨0, 0⟩).setPc ((placed 0x1ABC).pc + 2)) = .next t ∧
      t.halt = none) ∧
    ∃ t : State, (placed 0x00EE).mode = .running ∧ (placed 0x00EE).nextCommand = .step ⟨0, 0⟩ ∧
      decodeWord (wordOfBytes ((placed 0x00EE).readByte (placed 0x00EE).pc) ((placed 0x00EE).readByte ((placed 0x00EE).pc + 1))) =
        some .ret ∧
      exec .ret (((placed 0x00EE).takeCommand.beginCommand.sample ⟨0, 0⟩).setPc ((placed 0x00EE).pc + 2)) = .next t ∧
      t.halt = some (.stackUnderflow 0x00EE 0x200) := by
  refine ⟨⟨_, by decide, by decide, by decide, rfl, by decide⟩, _, by decide, by decide, by decide, rfl, by decide⟩

theorem witness_UndecodableWordHalts :
    (placed 0x00E1).mode = .running ∧ (placed 0x00E1).nextCommand = .step ⟨0, 0⟩ ∧ decodeWord (placed 0x00E1).fetch = none := by decide

theorem witness_HaltedStepChangesNothing :
    State.halt { placed 0 with halt := some (.invalidProgramLoad 3585) } = some (.invalidProgramLoad 3585) ∧
    State.nextCommand { placed 0 with halt := some (.invalidProgramLoad 3585) } = .step ⟨0, 0⟩ := by decide

theorem witness_AwaitingKeyPollsOnly :
    State.mode { placed 0 0 with kw := some 15 } = .awaitingKey 15 ∧
    State.nextCommand { placed 0 0 with kw := some 15 } = .step ⟨0, 0⟩ ∧ (⟨0, 0⟩ : Input).keys = 0 ∧
    State.mode { placed 0 0x8000 with kw := some 0 } = .awaitingKey 0 ∧
    State.nextCommand { placed 0 0x8000 with kw := some 0 } = .step ⟨0x8000, 0⟩ ∧ (⟨0x8000, 0⟩ : Input).keys ≠ 0 := by decide

theorem witness_FatalStepIsPrecise :
    ∃ u : State, fullStack.halt = none ∧ fullStack.nextCommand = .step ⟨0, 0⟩ ∧ step fullStack = .next u ∧
    u.halt = some (.stackOverflow 0x2345 0x200) := ⟨_, by decide, by decide, rfl, by decide⟩

theorem witness_JumpToSelfChangesNoSnapshotState :
    (placed 0x1200).mode = .running ∧ (placed 0x1200).nextCommand = .step ⟨0, 0⟩ ∧
    decodeWord (placed 0x1200).fetch = some (.jp (placed 0x1200).pc) := by decide

theorem witness_OldInputsDoNotMatter :
    (placed 0xE09E 1).halt = none ∧ (placed 0xE09E 1).nextCommand = .step ⟨1, 0⟩ := by decide

theorem witness_StepThenRewindRestores :
    ∃ t : State, State.inv { placed 0x1200 with host := [.step ⟨0, 0⟩, .rewind] } = true ∧
    State.halt { placed 0x1200 with host := [.step ⟨0, 0⟩, .rewind] } = none ∧
    State.host { placed 0x1200 with host := [.step ⟨0, 0⟩, .rewind] } = .step ⟨0, 0⟩ :: .rewind :: [] ∧
    step { placed 0x1200 with host := [.step ⟨0, 0⟩, .rewind] } = .next t ∧ t.halt = none ∧
    (placed 0x1200).hist.length < (placed 0x1200).cfg.histCap := ⟨_, by decide, by decide, by decide, rfl, by decide, by decide⟩

/-- A block with one history slot, in use. -/
def fullHistory : State :=
  { placed 0x1200 with
    cfg := { defaultConfig with histCap := 1 }, hist := [Snapshot.reset defaultConfig],
    host := [.step ⟨0, 0⟩, .rewind] }

/-- The history clause at its other boundary. -/
theorem witness_StepThenRewindRestores_full :
    ∃ t : State, fullHistory.inv = true ∧ fullHistory.halt = none ∧ fullHistory.host = .step ⟨0, 0⟩ :: .rewind :: [] ∧
    step fullHistory = .next t ∧ t.halt = none ∧ fullHistory.hist.length = fullHistory.cfg.histCap := ⟨_, by decide, by decide, by decide, rfl, by decide, by decide⟩

/-- A tick of one step, then a step, then two rewinds. -/
def rewindRun : State :=
  { placed 0x1200 with host := [.tick [⟨0, 0⟩], .step ⟨0, 0⟩] ++ (List.replicate 2 .rewind ++ []) }

theorem witness_RewindsUndoStepsAndTicks :
    ∃ t : State, rewindRun.inv = true ∧ rewindRun.halt = none ∧
    (∀ c ∈ ([.tick [⟨0, 0⟩], .step ⟨0, 0⟩] : List Command), c.isStepping = true) ∧
    (([.tick [⟨0, 0⟩], .step ⟨0, 0⟩] : List Command).map Command.steps).sum ≤ rewindRun.cfg.histCap ∧
    rewindRun.host = [.tick [⟨0, 0⟩], .step ⟨0, 0⟩] ++
      (List.replicate (([.tick [⟨0, 0⟩], .step ⟨0, 0⟩] : List Command).map Command.steps).sum .rewind ++ []) ∧
    core.run 2 rewindRun = .next t ∧ t.halt = none := ⟨_, by decide, by decide, by decide, by decide, by decide, rfl, by decide +kernel⟩

theorem witness_EveryStepKeepsInv :
    ∃ t : State, State.reset.inv = true ∧ step (placed 0x1200) = .next t ∧ (placed 0x1200).inv = true := ⟨_, by decide, rfl, by decide⟩

theorem witness_NoStepChangesConfig :
    ∃ t : State, step (placed 0x1200) = .next t := ⟨_, rfl⟩

theorem witness_OnlyResetOrLoadClearsHalt :
    ∃ t u : State,
    step { placed 0 with halt := some (.invalidProgramLoad 3585), host := [.reset] } = .next t ∧ t.halt = none ∧
    step { placed 0 with halt := some (.invalidProgramLoad 3585), host := [.load []] } = .next u ∧ u.halt = none := ⟨_, _, rfl, by decide, rfl, by decide⟩

theorem witness_TickEndsTheFrame :
    ∃ t : State, State.halt { placed 0x1200 with st := 2, host := [.tick [⟨0, 0⟩]] } = none ∧
    ([⟨0, 0⟩] : List Input) ≠ [] ∧
    State.nextCommand { placed 0x1200 with st := 2, host := [.tick [⟨0, 0⟩]] } = .tick [⟨0, 0⟩] ∧
    (State.takeCommand { placed 0x1200 with st := 2, host := [.tick [⟨0, 0⟩]] }).beginCommand.stepAll [⟨0, 0⟩] = .next t ∧
    t.halt = none := ⟨_, by decide, by decide, by decide, rfl, by decide⟩

theorem witness_TickEdgeCases :
    (State.halt { placed 0 with halt := some (.invalidProgramLoad 3585), host := [.tick []] } = some (.invalidProgramLoad 3585) ∧
      State.nextCommand { placed 0 with halt := some (.invalidProgramLoad 3585), host := [.tick []] } = .tick []) ∧
    (State.reset.halt = none ∧ State.nextCommand { State.reset with host := [.tick []] } = .tick []) ∧
    ∃ t u : State, State.nextCommand { placed 0 with host := [.tick ([] ++ ⟨0, 0⟩ :: [])] } = .tick ([] ++ ⟨0, 0⟩ :: []) ∧
      (State.takeCommand { placed 0 with host := [.tick ([] ++ ⟨0, 0⟩ :: [])] }).beginCommand.stepAll [] = .next t ∧
      t.halt = none ∧ t.stepWith ⟨0, 0⟩ = .next u ∧ u.halt ≠ none := ⟨by decide, by decide, _, _, by decide, rfl, by decide, rfl, by decide⟩

theorem witness_TickPushesOneSnapshotPerStep :
    ∃ u : State, State.inv { placed 0x1200 with host := [.tick [⟨0, 0⟩]] } = true ∧
    State.halt { placed 0x1200 with host := [.tick [⟨0, 0⟩]] } = none ∧
    State.nextCommand { placed 0x1200 with host := [.tick [⟨0, 0⟩]] } = .tick [⟨0, 0⟩] ∧
    step { placed 0x1200 with host := [.tick [⟨0, 0⟩]] } = .next u ∧ u.halt = none := ⟨_, by decide, by decide, by decide, rfl, by decide⟩

theorem witness_RewindRestoresNewest :
    State.nextCommand { State.reset with host := [.rewind] } = .rewind ∧ State.reset.hist = [] ∧
    State.nextCommand { fullHistory with host := [.rewind] } = .rewind ∧
    fullHistory.hist = [] ++ [Snapshot.reset defaultConfig] := by decide

theorem witness_SnapshotCommandsCopyState :
    State.nextCommand { State.reset with host := [.getSnapshot] } = .getSnapshot ∧
    State.nextCommand { State.reset with host := [.restoreSnapshot fullStack.toSnapshot] } =
      .restoreSnapshot fullStack.toSnapshot ∧
    fullStack.toSnapshot.wf State.reset.cfg = true := by decide

theorem witness_ResetStateIsTheTable :
    (79 : Addr).toNat < 80 ∧ 80 ≤ (80 : Addr).toNat ∧ 80 ≤ (4095 : Addr).toNat := by decide

theorem witness_ResetCommandResetsEverything :
    State.nextCommand { fullStack with host := [.reset] } = .reset := by decide

/-- A ROM of two bytes, and the longest ROM that is accepted. -/
theorem witness_LoadPlacesRom :
    State.nextCommand { fullStack with host := [.load [0x60, 0x05]] } = .load [0x60, 0x05] ∧
    ([0x60, 0x05] : List Byte).length ≤ 3584 ∧ 0 < ([0x60, 0x05] : List Byte).length ∧
    (0x1FF : Addr).toNat < 0x200 ∧ 0x200 + ([0x60, 0x05] : List Byte).length ≤ (0x202 : Addr).toNat ∧
    ([0x60, 0x05] : List Byte) = 0x60 :: 0x05 :: [] ∧ (List.replicate 3584 (0 : Byte)).length ≤ 3584 := by
  refine ⟨by decide, by decide, by decide, by decide, by decide, rfl, ?_⟩
  rw [List.length_replicate]

theorem witness_LoadResetsTheRest :
    State.nextCommand { fullStack with host := [.load [0x60, 0x05]] } = .load [0x60, 0x05] ∧
    ([0x60, 0x05] : List Byte).length ≤ 3584 ∧
    (0x1FF : Addr).toNat < 0x200 ∧ 0x200 + ([0x60, 0x05] : List Byte).length ≤ (0x202 : Addr).toNat := by decide

theorem witness_LoadRejectsLongRom :
    State.nextCommand { State.reset with host := [.load (List.replicate 3585 0)] } = .load (List.replicate 3585 0) ∧
    3584 < (List.replicate 3585 (0 : Byte)).length ∧
    ∃ u : State, State.nextCommand { State.reset with host := [.load []] } = .load [] ∧
      step { State.reset with host := [.load []] } = .next u := ⟨rfl, by rw [List.length_replicate]; decide, _, by decide, rfl⟩

end Sys2Proof.Tests
end

section
/-! SUPPORT. What an accepted `load` leaves (spec/70_reset_and_hazards.md R251), and O57 (spec/20_memory.md R63). -/

namespace Sys2Proof.Machine

/-! ### The command `load` -/

/-- When the next command is `load`, the step is that load on a state whose outputs are cleared. -/
theorem step_of_load {s : State} {bytes : List Byte} (h : s.nextCommand = .load bytes) :
    step s = .next (s.takeCommand.beginCommand.loadRom bytes) := by
  show s.takeCommand.runCommand s.nextCommand = _
  rw [h]
  rfl

variable (s : State) {bytes : List Byte}

/-- R251: a ROM that fits is copied over the reset state; the event and the answer follow. -/
theorem State.loadRom_of_le (hlen : bytes.length ≤ maxRom) :
    s.loadRom bytes = ((s.resetAll.copyRom 0x200 bytes).emit .stateChanged).answer .ok :=
  if_neg (Nat.not_lt.mpr hlen)

/-- R251: past a ROM that fits, everything but memory, the events and the answer is as `reset` leaves it. -/
theorem State.loadRom_eq (hlen : bytes.length ≤ maxRom) : ∃ mem, s.loadRom bytes =
    (({ s.resetAll with mem := mem }).emit .stateChanged).answer .ok := by
  obtain ⟨mem, hcopy, -⟩ := State.copyRom_eq s.resetAll 0x200 bytes
  exact ⟨mem, by rw [s.loadRom_of_le hlen, hcopy]⟩

/-- R63: byte k of a ROM that fits is read back at 0x200 + k; its last address is below 4096, so none wraps. -/
theorem State.readByte_loadRom (hlen : bytes.length ≤ maxRom) {k : Nat} (hk : k < bytes.length) :
    (s.loadRom bytes).readByte (BitVec.ofNat 12 (0x200 + k)) = bytes[k] := by
  have hfit : (0x200 : Addr).toNat + bytes.length ≤ 4096 := Nat.add_le_add_left hlen 0x200
  rw [s.loadRom_of_le hlen]
  exact State.copyRom_in s.resetAll 0x200 bytes hfit k hk

/-- R35, R251: PC after a load is the ROM's first address. -/
theorem State.loadRom_pc (hlen : bytes.length ≤ maxRom) : (s.loadRom bytes).pc = 0x200 := by
  obtain ⟨mem, hload⟩ := s.loadRom_eq hlen
  rw [hload]
  rfl

/-- R250, R251: a load that fits clears HALT and KW. -/
theorem State.loadRom_mode (hlen : bytes.length ≤ maxRom) : (s.loadRom bytes).mode = .running := by
  obtain ⟨mem, hload⟩ := s.loadRom_eq hlen
  rw [hload]
  rfl

/-- R63: the first word fetched after a load is ROM bytes 0 and 1, the first one high. -/
theorem State.loadRom_fetch {hi lo : Byte} {more : List Byte} (hlen : (hi :: lo :: more).length ≤ maxRom) :
    (s.loadRom (hi :: lo :: more)).fetch = wordOfBytes hi lo := by
  have hhi : (s.loadRom (hi :: lo :: more)).readByte 0x200 = hi :=
    s.readByte_loadRom hlen (k := 0) (by simp)
  have hlo : (s.loadRom (hi :: lo :: more)).readByte (0x200 + 1) = lo :=
    s.readByte_loadRom hlen (k := 1) (by simp)
  rw [State.fetch, State.readWord, s.loadRom_pc hlen, hhi, hlo]

end Sys2Proof.Machine

namespace Sys2Proof.Proofs

open Sys2Proof.Machine

/-- Settles O57: the step is the load itself, whose placement, PC, mode and first word are the lemmas above. -/
theorem loadPlacesRom : Obligations.LoadPlacesRom := by
  unfold Obligations.LoadPlacesRom
  intro s bytes hload hlen
  refine ⟨_, step_of_load hload, fun k hk => State.readByte_loadRom _ hlen hk, State.loadRom_pc _ hlen,
    State.loadRom_mode _ hlen, ?_⟩
  rintro hi lo more rfl
  exact State.loadRom_fetch _ hlen

end Sys2Proof.Proofs
end

section
/-! SUPPORT. The command `step` on the machine, and O38 (spec/40_dispatch_cycle.md R91). -/

namespace Sys2Proof.Machine

/-- When the next command is `step`, the transition is that step on a state whose outputs are cleared. -/
theorem step_of_step {s : State} {input : Input} (h : s.nextCommand = .step input) :
    step s = s.takeCommand.beginCommand.stepWith input := by
  show s.takeCommand.runCommand s.nextCommand = _
  rw [h]
  rfl

/-- Beginning a command leaves the snapshot elements, HALT, HIST and the configuration. -/
theorem State.takeCommand_beginCommand_keeps (s : State) :
    s.takeCommand.beginCommand.toSnapshot = s.toSnapshot ∧ s.takeCommand.beginCommand.halt = s.halt ∧
      s.takeCommand.beginCommand.hist = s.hist ∧ s.takeCommand.beginCommand.cfg = s.cfg := by
  obtain ⟨draws, host, htake⟩ := s.takeCommand_eq
  rw [htake]
  exact ⟨rfl, rfl, rfl, rfl⟩

end Sys2Proof.Machine

namespace Sys2Proof.Proofs

open Sys2Proof.Machine

/-- Settles O38: beginning the command keeps HALT, so the step only answers (`State.stepWith_halted`). -/
theorem haltedStepChangesNothing : Obligations.HaltedStepChangesNothing := by
  unfold Obligations.HaltedStepChangesNothing
  intro s input e hhalt hcmd
  obtain ⟨hsnap, hkeep, hhist, hcfg⟩ := s.takeCommand_beginCommand_keeps
  exact ⟨_, (step_of_step hcmd).trans (State.stepWith_halted _ input (hkeep.trans hhalt)),
    hsnap, hkeep, hhist, hcfg, rfl, rfl⟩

end Sys2Proof.Proofs
end

section
/-! SUPPORT. A row of the opcode map as `DecodesAs`, frames (`KeepsAllBut`) and the facts of the invariant, and the
statements about single control-transfer instructions: O6, O8 and O9 (spec/41_control_flow.md R110 to R112,
spec/60_exceptions.md R202, R203). -/

namespace Sys2Proof

/-- The ranges of R5, one by one. -/
theorem Config.wf_iff (c : Config) :
    c.wf = true ↔ 12 ≤ c.stackCap ∧ c.stackCap ≤ 16 ∧ 1 ≤ c.histCap := by
  simp [Config.wf, and_assoc]

end Sys2Proof

namespace Sys2Proof.Machine

/-! ### Decoding -/

/-- R74: each row of the map decodes the words of its pattern, in the words of `DecodesAs`. -/
theorem decodesAs_of_row {r : Row} (hr : r ∈ rows) : DecodesAs r.format.mask r.pattern r.format.instr :=
  fun _ hw => decodeWord_of_row hr (beq_iff_eq.mpr hw)

/-! ### Frames -/

/-- What reads the same in s and t, and in t and u, reads the same in s and u. -/
theorem Part.Same.trans {p : Part} {s t u : State} (hst : p.Same s t) (htu : p.Same t u) : p.Same s u := by
  cases p
  case registers | memory | stackSlots => exact fun k => (htu k).trans (hst k)
  case display => exact fun row col => (htu row col).trans (hst row col)
  case inputs =>
    obtain ⟨hkeys, hrnd, hdraws⟩ := hst
    obtain ⟨hkeys', hrnd', hdraws'⟩ := htu
    exact ⟨hkeys'.trans hkeys, hrnd'.trans hrnd, hdraws'.trans hdraws⟩
  all_goals exact Eq.trans htu hst

/-- Of two transitions in a row, what either may change may change. -/
theorem KeepsAllBut.trans {ps qs : List Part} {s t u : State} (hst : KeepsAllBut ps s t)
    (htu : KeepsAllBut qs t u) : KeepsAllBut (ps ++ qs) s u := fun p hp =>
  (hst p fun h => hp (List.mem_append_left qs h)).trans (htu p fun h => hp (List.mem_append_right ps h))

/-- A frame may name more parts than change. -/
theorem KeepsAllBut.mono {ps qs : List Part} {s t : State} (h : KeepsAllBut ps s t) (hsub : ps ⊆ qs) :
    KeepsAllBut qs s t := fun p hp => h p fun hps => hp (hsub hps)

variable (s : State)

theorem State.setPc_keeps (a : Addr) : KeepsAllBut [.pc] s (s.setPc a) := by
  intro p hp
  cases p
  case pc => simp at hp
  all_goals simp [Part.Same]

theorem State.pushStack_keeps (a : Addr) : KeepsAllBut [.stackSlots, .stackPointer] s (s.pushStack a) := by
  intro p hp
  cases p
  case stackSlots | stackPointer => simp at hp
  all_goals simp [Part.Same]

theorem State.popStack_keeps : KeepsAllBut [.pc, .stackPointer] s s.popStack := by
  intro p hp
  cases p
  case pc | stackPointer => simp at hp
  all_goals simp [Part.Same]

/-- R205: raising an error changes HALT and the events alone. -/
theorem State.raise_keeps (h : Halt) : KeepsAllBut [.halt, .events] s (s.raise h) := by
  intro p hp
  cases p
  case halt | events => simp at hp
  all_goals simp [Part.Same]

/-! ### The invariant and the stack pointer (R26, R27) -/

variable {s}

theorem State.inv_iff : s.inv = true ↔ s.cfg.wf = true ∧ s.toSnapshot.wf s.cfg = true ∧
    (∀ p ∈ s.hist, p.wf s.cfg = true) ∧ s.hist.length ≤ s.cfg.histCap := by
  simp [State.inv, and_assoc]

/-- Short of a full stack the slot at SP exists, and there are at most 16 slots. -/
theorem State.sp_lt_of_inv (hinv : s.inv = true) (hfree : s.sp.toNat ≠ s.cfg.stackCap) :
    s.sp.toNat < s.stack.length ∧ s.sp.toNat < 16 := by
  obtain ⟨hcfg, hsnap, -, -⟩ := State.inv_iff.mp hinv
  obtain ⟨-, hcap, -⟩ := s.cfg.wf_iff.mp hcfg
  obtain ⟨-, hlen, hsp⟩ := (Snapshot.wf_iff s.cfg s.toSnapshot).mp hsnap
  omega

/-- A push that is allowed does not wrap SP. -/
theorem State.toNat_pushStack_sp (a : Addr) (hinv : s.inv = true) (hfree : s.sp.toNat ≠ s.cfg.stackCap) :
    (s.pushStack a).sp.toNat = s.sp.toNat + 1 := by
  obtain ⟨-, hlt⟩ := State.sp_lt_of_inv hinv hfree
  rw [State.pushStack_sp]
  bv_omega

/-- A pop that is allowed does not wrap SP. -/
theorem State.toNat_popStack_sp (hsp : s.sp ≠ 0) : s.popStack.sp.toNat + 1 = s.sp.toNat := by
  rw [State.popStack_sp]
  bv_omega

/-! ### The instructions, a branch each -/

theorem exec_jp (nnn : Addr) : exec (.jp nnn) s = .next (s.setPc nnn) := rfl

theorem exec_call_of_free (nnn : Addr) (h : s.sp.toNat ≠ s.cfg.stackCap) :
    exec (.call nnn) s = .next ((s.pushStack s.pc).setPc nnn) :=
  congrArg _ (if_neg h)

theorem exec_call_of_full (nnn : Addr) (h : s.sp.toNat = s.cfg.stackCap) :
    exec (.call nnn) s = .next (s.raise (.stackOverflow (encodeWord (.call nnn)) s.instrAddr)) :=
  congrArg _ (if_pos h)

theorem exec_ret_of_ne (h : s.sp ≠ 0) : exec .ret s = .next s.popStack :=
  congrArg _ (if_neg h)

theorem exec_ret_of_zero (h : s.sp = 0) :
    exec .ret s = .next (s.raise (.stackUnderflow (encodeWord .ret) s.instrAddr)) :=
  congrArg _ (if_pos h)

end Sys2Proof.Machine

namespace Sys2Proof.Proofs

open Sys2Proof.Machine

/-- Settles O6: row 1nnn of the map, and the frame of a PC write. -/
theorem jpSetsPc : Obligations.JpSetsPc := by
  unfold Obligations.JpSetsPc
  refine ⟨decodesAs_of_row (r := ⟨0x1000, .nnn .jp⟩) (by simp [rows, rowsAddress]), fun nnn s => ?_⟩
  exact ⟨_, exec_jp nnn, rfl, s.setPc_keeps nnn⟩

/-- Settles O8: with a free slot the call is a push then a jump, which the invariant keeps from wrapping SP or
missing the slots; with none it only raises. -/
theorem callPushesOrOverflows : Obligations.CallPushesOrOverflows := by
  unfold Obligations.CallPushesOrOverflows
  refine ⟨decodesAs_of_row (r := ⟨0x2000, .nnn .call⟩) (by simp [rows, rowsAddress]), ?_⟩
  refine fun nnn s hinv => ⟨fun hfree => ?_, fun hfull => ?_⟩
  · obtain ⟨hslot, -⟩ := State.sp_lt_of_inv hinv hfree
    refine ⟨_, exec_call_of_free nnn hfree, ?_, State.toNat_pushStack_sp s.pc hinv hfree, rfl, fun k hk => ?_, ?_⟩
    · rw [State.setPc_stackAt, State.stackAt_pushStack s s.pc s.sp hslot, if_pos rfl]
    · rw [State.setPc_stackAt, State.stackAt_pushStack s s.pc k hslot, if_neg hk]
    · exact ((s.pushStack_keeps s.pc).trans (State.setPc_keeps _ nnn)).mono (by decide)
  · exact ⟨_, exec_call_of_full nnn hfull, rfl, s.raise_keeps _⟩

/-- Settles O9: with a slot in use the return is a pop, which leaves every slot; with none it only raises. -/
theorem retPopsOrUnderflows : Obligations.RetPopsOrUnderflows := by
  unfold Obligations.RetPopsOrUnderflows
  refine ⟨decodesAs_of_row (r := ⟨0x00EE, .fixed .ret⟩) (by simp [rows, rowsAddress]), ?_⟩
  refine fun s => ⟨fun hsp => ?_, fun hzero => ?_⟩
  · exact ⟨_, exec_ret_of_ne hsp, State.toNat_popStack_sp hsp, rfl, s.popStack_keeps⟩
  · exact ⟨_, exec_ret_of_zero hzero, rfl, s.raise_keeps _⟩

end Sys2Proof.Proofs
end

section
/-! SUPPORT. What a register write changes and keeps, the arithmetic of results and flags (spec/42_register_alu.md
R142) as facts about `toNat`, the arms of the register instructions, and O12 to O17 (R130 to R140). -/

namespace Sys2Proof.Machine

/-! ### Register writes and their frames -/

section
variable (s : State)

theorem State.getV_setV_self (x : Reg) (b : Byte) : (s.setV x b).getV x = b := by
  rw [State.getV_setV, if_pos rfl]

theorem State.setV_keepsRegs (x : Reg) (b : Byte) : KeepsRegsBut [x] s (s.setV x b) := by
  intro r hr
  rw [State.getV_setV, if_neg (List.ne_of_not_mem_cons hr)]

theorem State.setV_keeps (x : Reg) (b : Byte) : KeepsAllBut [.registers] s (s.setV x b) := by
  intro p hp
  cases p
  case registers => simp at hp
  all_goals simp [Part.Same]

/-- R23: the flag is written last, so VF holds it also when x = 15. -/
theorem State.getV_setWithFlag_VF (x : Reg) (b : Byte) (f : Bool) :
    (s.setWithFlag x b f).getV VF = flagByte f := by
  rw [State.getV_setWithFlag, if_pos rfl]

theorem State.getV_setWithFlag_of_ne {x : Reg} (hx : x ≠ VF) (b : Byte) (f : Bool) :
    (s.setWithFlag x b f).getV x = b := by
  rw [State.getV_setWithFlag, if_neg hx, if_pos rfl]

theorem State.setWithFlag_keepsRegs (x : Reg) (b : Byte) (f : Bool) :
    KeepsRegsBut [x, VF] s (s.setWithFlag x b f) := by
  intro r hr
  obtain ⟨hx, hVF⟩ : r ≠ x ∧ r ≠ VF := by simpa using hr
  rw [State.getV_setWithFlag, if_neg hVF, if_neg hx]

/-- The result and the flag are two register writes. -/
theorem State.setWithFlag_keeps (x : Reg) (b : Byte) (f : Bool) :
    KeepsAllBut [.registers] s (s.setWithFlag x b f) :=
  ((s.setV_keeps x b).trans (State.setV_keeps _ VF (flagByte f))).mono (by decide)

end

/-! ### Results and flags (R142) -/

theorem toNat_sumByte (a b : Byte) : (sumByte a b).toNat = (a.toNat + b.toNat) % 256 :=
  BitVec.toNat_ofNat _ _

/-- The integer difference mod 256, in naturals: adding 256 first keeps it from going below 0. -/
theorem toNat_differenceByte (a b : Byte) :
    (differenceByte a b).toNat = (256 + a.toNat - b.toNat) % 256 := by
  rw [differenceByte, BitVec.toNat_ofInt]
  omega

theorem toNat_shiftRightByte (b : Byte) : (shiftRightByte b).toNat = b.toNat / 2 := by
  rw [shiftRightByte, BitVec.toNat_ofNat]
  omega

theorem toNat_shiftLeftByte (b : Byte) : (shiftLeftByte b).toNat = b.toNat * 2 % 256 :=
  BitVec.toNat_ofNat _ _

theorem flagByte_carry (a b : Byte) :
    flagByte (carry a b) = if a.toNat + b.toNat > 255 then 1 else 0 := by
  simp only [flagByte, carry, decide_eq_true_eq]

theorem flagByte_noBorrow (a b : Byte) :
    flagByte (noBorrow a b) = if a.toNat ≥ b.toNat then 1 else 0 := by
  simp only [flagByte, noBorrow, decide_eq_true_eq]

theorem toNat_flagByte (f : Bool) : (flagByte f).toNat = f.toNat := by
  cases f <;> rfl

/-- The flag of a shift: bit k of the source as a number. -/
theorem toNat_flagByte_getLsbD (b : Byte) (k : Nat) :
    (flagByte (b.getLsbD k)).toNat = b.toNat / 2 ^ k % 2 := by
  rw [toNat_flagByte, BitVec.getLsbD, Nat.toNat_testBit]

/-- R138: the bit shifted out to the right. -/
theorem toNat_flagByte_lsb (b : Byte) : (flagByte (b.getLsbD 0)).toNat = b.toNat % 2 := by
  rw [toNat_flagByte_getLsbD, pow_zero, Nat.div_one]

/-- R140: the bit shifted out to the left; a byte has none above it. -/
theorem toNat_flagByte_msb (b : Byte) : (flagByte (b.getLsbD 7)).toNat = b.toNat / 128 := by
  rw [toNat_flagByte_getLsbD]
  omega

/-! ### The instructions -/

section
variable (x y : Reg) (nn : Byte) (s : State)

theorem exec_ldNn : exec (.ldNn x nn) s = .next (s.setV x nn) := rfl

theorem exec_addNn : exec (.addNn x nn) s = .next (s.setV x (sumByte (s.getV x) nn)) := rfl

theorem exec_ldVy : exec (.ldVy x y) s = .next (s.setV x (s.getV y)) := rfl

theorem exec_orVy : exec (.orVy x y) s = .next (s.setV x (s.getV x ||| s.getV y)) := rfl

theorem exec_andVy : exec (.andVy x y) s = .next (s.setV x (s.getV x &&& s.getV y)) := rfl

theorem exec_xorVy : exec (.xorVy x y) s = .next (s.setV x (s.getV x ^^^ s.getV y)) := rfl

theorem exec_addVy : exec (.addVy x y) s =
    .next (s.setWithFlag x (sumByte (s.getV x) (s.getV y)) (carry (s.getV x) (s.getV y))) := rfl

theorem exec_subVy : exec (.subVy x y) s =
    .next (s.setWithFlag x (differenceByte (s.getV x) (s.getV y)) (noBorrow (s.getV x) (s.getV y))) := rfl

theorem exec_shrVy : exec (.shrVy x y) s =
    .next (s.setWithFlag x (shiftRightByte (s.getV y)) ((s.getV y).getLsbD 0)) := rfl

theorem exec_subnVy : exec (.subnVy x y) s =
    .next (s.setWithFlag x (differenceByte (s.getV y) (s.getV x)) (noBorrow (s.getV y) (s.getV x))) := rfl

theorem exec_shlVy : exec (.shlVy x y) s =
    .next (s.setWithFlag x (shiftLeftByte (s.getV y)) ((s.getV y).getLsbD 7)) := rfl

end

/-! ### Their rows of the map -/

/-- The rows of two registers are rows of the map. -/
theorem mem_rows_of_register {r : Row} (hr : r ∈ rowsRegister) : r ∈ rows :=
  List.mem_append_left _ (List.mem_append_right _ hr)

/-- The rows of immediates are rows of the map. -/
theorem mem_rows_of_immediate {r : Row} (hr : r ∈ rowsImmediate) : r ∈ rows :=
  List.mem_append_left _ (List.mem_append_left _ (List.mem_append_right _ hr))

/-- R75: a row of two registers, in the words of `DecodesAs`. -/
theorem decodesAs_xy {pattern : Word} {f : Reg → Reg → Instr} (hr : ⟨pattern, .xy f⟩ ∈ rowsRegister) :
    DecodesAs 0xF00F pattern fun w => f (fieldX w) (fieldY w) :=
  decodesAs_of_row (mem_rows_of_register hr)

/-- R75: a row of a register and a byte, in the words of `DecodesAs`. -/
theorem decodesAs_xnn {pattern : Word} {f : Reg → Byte → Instr} (hr : ⟨pattern, .xnn f⟩ ∈ rowsImmediate) :
    DecodesAs 0xF000 pattern fun w => f (fieldX w) (fieldNn w) :=
  decodesAs_of_row (mem_rows_of_immediate hr)

end Sys2Proof.Machine

namespace Sys2Proof.Proofs

open Sys2Proof.Machine

/-- Settles O12: both are one register write. -/
theorem loadsWriteVx : Obligations.LoadsWriteVx := by
  unfold Obligations.LoadsWriteVx
  refine ⟨decodesAs_xnn (by simp [rowsImmediate]), decodesAs_xy (by simp [rowsRegister]),
    fun x y nn s => ⟨?_, ?_⟩⟩
  · exact ⟨_, exec_ldNn x nn s, s.getV_setV_self x _, s.setV_keepsRegs x _, s.setV_keeps x _⟩
  · exact ⟨_, exec_ldVy x y s, s.getV_setV_self x _, s.setV_keepsRegs x _, s.setV_keeps x _⟩

/-- Settles O13: one register write of the wrapped sum. -/
theorem addImmediateWrapsWithoutFlag : Obligations.AddImmediateWrapsWithoutFlag := by
  unfold Obligations.AddImmediateWrapsWithoutFlag
  refine ⟨decodesAs_xnn (by simp [rowsImmediate]), fun x nn s => ?_⟩
  refine ⟨_, exec_addNn x nn s, ?_, s.setV_keepsRegs x _, s.setV_keeps x _⟩
  rw [State.getV_setV_self, toNat_sumByte]

/-- Settles O14: one register write of the combined bits. -/
theorem logicCombinesBitsWithoutFlag : Obligations.LogicCombinesBitsWithoutFlag := by
  unfold Obligations.LogicCombinesBitsWithoutFlag
  refine ⟨decodesAs_xy (by simp [rowsRegister]), decodesAs_xy (by simp [rowsRegister]),
    decodesAs_xy (by simp [rowsRegister]), fun x y s => ⟨?_, ?_, ?_⟩⟩
  · refine ⟨_, exec_orVy x y s, fun k => ?_, s.setV_keepsRegs x _, s.setV_keeps x _⟩
    rw [State.getV_setV_self, BitVec.getLsbD_or]
  · refine ⟨_, exec_andVy x y s, fun k => ?_, s.setV_keepsRegs x _, s.setV_keeps x _⟩
    rw [State.getV_setV_self, BitVec.getLsbD_and]
  · refine ⟨_, exec_xorVy x y s, fun k => ?_, s.setV_keepsRegs x _, s.setV_keeps x _⟩
    rw [State.getV_setV_self, BitVec.getLsbD_xor]

/-- Settles O15: the wrapped sum, then the carry over it. -/
theorem addRegistersSetsCarry : Obligations.AddRegistersSetsCarry := by
  unfold Obligations.AddRegistersSetsCarry
  refine ⟨decodesAs_xy (by simp [rowsRegister]), fun x y s => ?_⟩
  refine ⟨_, exec_addVy x y s, fun hx => ?_, ?_, s.setWithFlag_keepsRegs x _ _, s.setWithFlag_keeps x _ _⟩
  · rw [s.getV_setWithFlag_of_ne hx, toNat_sumByte]
  · rw [State.getV_setWithFlag_VF, flagByte_carry]

/-- Settles O16: the wrapped difference, then no-borrow over it; SUBN exchanges the operands. -/
theorem subtractionsSetNoBorrow : Obligations.SubtractionsSetNoBorrow := by
  unfold Obligations.SubtractionsSetNoBorrow
  refine ⟨decodesAs_xy (by simp [rowsRegister]), decodesAs_xy (by simp [rowsRegister]),
    fun x y s => ⟨?_, ?_⟩⟩
  · refine ⟨_, exec_subVy x y s, fun hx => ?_, ?_, s.setWithFlag_keepsRegs x _ _, s.setWithFlag_keeps x _ _⟩
    · rw [s.getV_setWithFlag_of_ne hx, toNat_differenceByte]
    · rw [State.getV_setWithFlag_VF, flagByte_noBorrow]
  · refine ⟨_, exec_subnVy x y s, fun hx => ?_, ?_, s.setWithFlag_keepsRegs x _ _, s.setWithFlag_keeps x _ _⟩
    · rw [s.getV_setWithFlag_of_ne hx, toNat_differenceByte]
    · rw [State.getV_setWithFlag_VF, flagByte_noBorrow]

/-- Settles O17: the shifted source, then the bit shifted out over it. -/
theorem shiftsMoveVyAndSetFlag : Obligations.ShiftsMoveVyAndSetFlag := by
  unfold Obligations.ShiftsMoveVyAndSetFlag
  refine ⟨decodesAs_xy (by simp [rowsRegister]), decodesAs_xy (by simp [rowsRegister]),
    fun x y s => ⟨?_, ?_⟩⟩
  · refine ⟨_, exec_shrVy x y s, fun hx => ?_, ?_, s.setWithFlag_keepsRegs x _ _, s.setWithFlag_keeps x _ _⟩
    · rw [s.getV_setWithFlag_of_ne hx, toNat_shiftRightByte]
    · rw [State.getV_setWithFlag_VF, toNat_flagByte_lsb]
  · refine ⟨_, exec_shlVy x y s, fun hx => ?_, ?_, s.setWithFlag_keepsRegs x _ _, s.setWithFlag_keeps x _ _⟩
    · rw [s.getV_setWithFlag_of_ne hx, toNat_shiftLeftByte]
    · rw [State.getV_setWithFlag_VF, toNat_flagByte_msb]

end Sys2Proof.Proofs
end

section
/-! SUPPORT. What a write of I changes and keeps, and O19 and O21 (spec/43_index_memory.md R150, R152). -/

namespace Sys2Proof.Machine

/-! ### The index register -/

theorem State.setI_keeps (s : State) (w : Word) : KeepsAllBut [.index] s (s.setI w) := by
  intro p hp
  cases p
  case index => simp at hp
  all_goals simp [Part.Same]

/-- R152: sixteen glyphs of five bytes fit in I, so the product does not wrap. -/
theorem toNat_glyphAddr (b : Byte) : (glyphAddr b).toNat = b.toNat % 16 * 5 := by
  have hlt : b.toNat % 16 < 16 := Nat.mod_lt _ (by decide)
  rw [glyphAddr, BitVec.toNat_ofNat]
  omega

/-! ### The instructions -/

theorem exec_ldI (nnn : Addr) (s : State) : exec (.ldI nnn) s = .next (s.setI (nnn.setWidth 16)) := rfl

theorem exec_ldF (x : Reg) (s : State) : exec (.ldF x) s = .next (s.setI (glyphAddr (s.getV x))) := rfl

/-! ### Their rows of the map -/

/-- R75: a row of one register and a sub-opcode byte, in the words of `DecodesAs`. -/
theorem decodesAs_x {pattern : Word} {f : Reg → Instr} (hr : ⟨pattern, .x f⟩ ∈ rowsSubOpcode) :
    DecodesAs 0xF0FF pattern fun w => f (fieldX w) :=
  decodesAs_of_row (List.mem_append_right _ hr)

end Sys2Proof.Machine

namespace Sys2Proof.Proofs

open Sys2Proof.Machine

/-- Settles O19: one write of I, with the address zero-extended. -/
theorem ldISetsIndex : Obligations.LdISetsIndex := by
  unfold Obligations.LdISetsIndex
  refine ⟨decodesAs_of_row (r := ⟨0xA000, .nnn .ldI⟩) (by simp [rows, rowsAddress]), fun nnn s => ?_⟩
  refine ⟨_, exec_ldI nnn s, ?_, s.setI_keeps _⟩
  rw [State.setI_i, BitVec.toNat_setWidth_of_le (by decide)]

/-- Settles O21: one write of I, with the glyph's address. -/
theorem ldFSelectsGlyph : Obligations.LdFSelectsGlyph := by
  unfold Obligations.LdFSelectsGlyph
  refine ⟨decodesAs_x (by simp [rowsSubOpcode]), fun x s => ?_⟩
  refine ⟨_, exec_ldF x s, ?_, s.setI_keeps _⟩
  rw [State.setI_i, toNat_glyphAddr]

end Sys2Proof.Proofs
end

section
/-! SUPPORT. What replacing the display changes and keeps, and O26 (spec/44_display.md R170). -/

namespace Sys2Proof.Machine

theorem State.setFb_keeps (s : State) (fb : Framebuffer) : KeepsAllBut [.display] s (s.setFb fb) := by
  intro p hp
  cases p
  case display => simp at hp
  all_goals simp [Part.Same]

theorem exec_cls (s : State) : exec .cls s = .next (s.setFb Framebuffer.blank) := rfl

end Sys2Proof.Machine

namespace Sys2Proof.Proofs

open Sys2Proof.Machine

/-- Settles O26: the display is replaced by the blank one, which has no lit cell. -/
theorem clsBlanksDisplay : Obligations.ClsBlanksDisplay := by
  unfold Obligations.ClsBlanksDisplay
  refine ⟨decodesAs_of_row (r := ⟨0x00E0, .fixed .cls⟩) (by simp [rows, rowsAddress]), fun s => ?_⟩
  refine ⟨_, exec_cls s, fun row col => ?_, s.setFb_keeps _⟩
  rw [State.setFb_cell, Framebuffer.cell_blank]

end Sys2Proof.Proofs
end

section
/-! SUPPORT. The decoder and the encoder are inverse to each other, and the decoder accepts exactly the legal words:
O1 to O5 (spec/30_encoding.md R70 to R77). -/

namespace Sys2Proof

/-! ### Decoding an encoded instruction -/

/-- R75: every instruction has its row of the map. -/
theorem rowOf : ∀ i : Instr, Laws.RowOf.Statement i
  | .cls => Laws.RowOf.cls
  | .ret => Laws.RowOf.ret
  | .jp nnn => Laws.RowOf.jp nnn
  | .call nnn => Laws.RowOf.call nnn
  | .seNn x nn => Laws.RowOf.seNn x nn
  | .sneNn x nn => Laws.RowOf.sneNn x nn
  | .seVy x y => Laws.RowOf.seVy x y
  | .ldNn x nn => Laws.RowOf.ldNn x nn
  | .addNn x nn => Laws.RowOf.addNn x nn
  | .ldVy x y => Laws.RowOf.ldVy x y
  | .orVy x y => Laws.RowOf.orVy x y
  | .andVy x y => Laws.RowOf.andVy x y
  | .xorVy x y => Laws.RowOf.xorVy x y
  | .addVy x y => Laws.RowOf.addVy x y
  | .subVy x y => Laws.RowOf.subVy x y
  | .shrVy x y => Laws.RowOf.shrVy x y
  | .subnVy x y => Laws.RowOf.subnVy x y
  | .shlVy x y => Laws.RowOf.shlVy x y
  | .sneVy x y => Laws.RowOf.sneVy x y
  | .ldI nnn => Laws.RowOf.ldI nnn
  | .jpV0 nnn => Laws.RowOf.jpV0 nnn
  | .rnd x nn => Laws.RowOf.rnd x nn
  | .drw x y n => Laws.RowOf.drw x y n
  | .skp x => Laws.RowOf.skp x
  | .sknp x => Laws.RowOf.sknp x
  | .ldVxDt x => Laws.RowOf.ldVxDt x
  | .ldVxK x => Laws.RowOf.ldVxK x
  | .ldDtVx x => Laws.RowOf.ldDtVx x
  | .ldStVx x => Laws.RowOf.ldStVx x
  | .addI x => Laws.RowOf.addI x
  | .ldF x => Laws.RowOf.ldF x
  | .ldB x => Laws.RowOf.ldB x
  | .ldMemVx x => Laws.RowOf.ldMemVx x
  | .ldVxMem x => Laws.RowOf.ldVxMem x

/-- The word of an instruction decodes to it: its own row accepts the word, and no other does. -/
theorem decodeWord_encodeWord (i : Instr) : decodeWord (encodeWord i) = some i := by
  obtain ⟨r, hr, hacc, hinstr⟩ := rowOf i
  rw [decodeWord_of_row hr hacc, hinstr]

theorem decodeBytes_of_decodeWord {hi lo : Byte} {i : Instr} (h : decodeWord (wordOfBytes hi lo) = some i)
    (rest : List Byte) : decodeBytes (hi :: lo :: rest) = .ok (i, rest) := by
  simp only [decodeBytes, h]

/-! ### A word is made of its fields (R71) -/

section
variable (c : Nibble) (x y : Reg) (n : Nibble) (nn : Byte) (nnn : Addr) (w : Word)

theorem wordNnn_fields : wordNnn (fieldClass w) (fieldNnn w) = w := by
  apply BitVec.eq_of_getLsbD_eq
  intro k hk
  simp only [getLsbD_wordNnn, fieldClass, fieldNnn, BitVec.getLsbD_extractLsb']
  interval_cases k <;> simp

theorem wordXnn_fields : wordXnn (fieldClass w) (fieldX w) (fieldNn w) = w := by
  apply BitVec.eq_of_getLsbD_eq
  intro k hk
  simp only [getLsbD_wordXnn, fieldClass, fieldX, fieldNn, BitVec.getLsbD_extractLsb']
  interval_cases k <;> simp

theorem wordXyn_fields : wordXyn (fieldClass w) (fieldX w) (fieldY w) (fieldN w) = w := by
  apply BitVec.eq_of_getLsbD_eq
  intro k hk
  simp only [getLsbD_wordXyn, fieldClass, fieldX, fieldY, fieldN, BitVec.getLsbD_extractLsb']
  interval_cases k <;> simp

@[simp] theorem fieldClass_wordNnn : fieldClass (wordNnn c nnn) = c := by
  apply BitVec.eq_of_getLsbD_eq
  intro k hk
  simp [fieldClass, getLsbD_wordNnn, hk]

@[simp] theorem fieldClass_wordXnn : fieldClass (wordXnn c x nn) = c := by
  apply BitVec.eq_of_getLsbD_eq
  intro k hk
  simp only [fieldClass, BitVec.getLsbD_extractLsb', getLsbD_wordXnn]
  simp [hk, show ¬12 + k < 8 by omega, show ¬12 + k - 8 < 4 by omega, show 12 + k - 8 - 4 = k by omega]

@[simp] theorem fieldClass_wordXyn : fieldClass (wordXyn c x y n) = c := by
  apply BitVec.eq_of_getLsbD_eq
  intro k hk
  simp only [fieldClass, BitVec.getLsbD_extractLsb', getLsbD_wordXyn]
  simp [hk, show ¬12 + k < 4 by omega, show ¬12 + k - 4 < 4 by omega, show ¬12 + k - 4 - 4 < 4 by omega,
    show 12 + k - 4 - 4 - 4 = k by omega]

end

/-! ### What a row accepts, in fields (R72, R74) -/

section
variable {w p : Word}

/-- The formats NNN, XNN and XYN fix the class nibble. -/
theorem and_mask_class_iff (hp : p &&& 0xF000 = p) : w &&& 0xF000 = p ↔ fieldClass w = fieldClass p := by
  have hmask (v : Word) : v &&& 0xF000 = wordNnn (fieldClass v) 0 := by
    rw [← wordNnn_and_mask (fieldClass v) (fieldNnn v), wordNnn_fields]
  refine ⟨fun h => ?_, fun h => ?_⟩
  · rw [← h, hmask w, fieldClass_wordNnn]
  · rw [hmask w, h, ← hmask p, hp]

/-- The format XY fixes the class nibble and the low nibble. -/
theorem and_mask_xy_iff (hp : p &&& 0xF00F = p) :
    w &&& 0xF00F = p ↔ fieldClass w = fieldClass p ∧ fieldN w = fieldN p := by
  have hmask (v : Word) : v &&& 0xF00F = wordXyn (fieldClass v) 0 0 (fieldN v) := by
    rw [← wordXyn_and_mask_xy (fieldClass v) (fieldX v) (fieldY v) (fieldN v), wordXyn_fields]
  refine ⟨fun h => ?_, fun ⟨hc, hn⟩ => ?_⟩
  · rw [← h, hmask w, fieldClass_wordXyn, fieldN_wordXyn]
    exact ⟨rfl, rfl⟩
  · rw [hmask w, hc, hn, ← hmask p, hp]

/-- The format X fixes the class nibble and the low byte. -/
theorem and_mask_x_iff (hp : p &&& 0xF0FF = p) :
    w &&& 0xF0FF = p ↔ fieldClass w = fieldClass p ∧ fieldNn w = fieldNn p := by
  have hmask (v : Word) : v &&& 0xF0FF = wordXnn (fieldClass v) 0 (fieldNn v) := by
    rw [← wordXnn_and_mask_x (fieldClass v) (fieldX v) (fieldNn v), wordXnn_fields]
  refine ⟨fun h => ?_, fun ⟨hc, hn⟩ => ?_⟩
  · rw [← h, hmask w, fieldClass_wordXnn, fieldNn_wordXnn]
    exact ⟨rfl, rfl⟩
  · rw [hmask w, hc, hn, ← hmask p, hp]

/-- The format of a fixed word fixes every bit. -/
theorem and_mask_fixed : w &&& 0xFFFF = w := BitVec.and_allOnes

end

/-! ### Encoding a decoded instruction -/

/-- The encoder gives back every word the row accepts. -/
def Row.Encodes (r : Row) : Prop := ∀ w, r.accepts w = true → encodeWord (r.format.instr w) = w

section
variable {p : Word}

theorem Row.Encodes.fixed {i : Instr} (h : encodeWord i = p) : (⟨p, .fixed i⟩ : Row).Encodes := fun w hw => by
  have hw : w &&& 0xFFFF = p := beq_iff_eq.mp hw
  rw [and_mask_fixed] at hw
  exact h.trans hw.symm

theorem Row.Encodes.nnn {f : Addr → Instr} (h : ∀ nnn, encodeWord (f nnn) = wordNnn (fieldClass p) nnn)
    (hp : p &&& 0xF000 = p) : (⟨p, .nnn f⟩ : Row).Encodes := fun w hw => by
  have hc := (and_mask_class_iff hp).mp (beq_iff_eq.mp hw)
  rw [Format.instr, h, ← hc, wordNnn_fields]

theorem Row.Encodes.xnn {f : Reg → Byte → Instr} (h : ∀ x nn, encodeWord (f x nn) = wordXnn (fieldClass p) x nn)
    (hp : p &&& 0xF000 = p) : (⟨p, .xnn f⟩ : Row).Encodes := fun w hw => by
  have hc := (and_mask_class_iff hp).mp (beq_iff_eq.mp hw)
  rw [Format.instr, h, ← hc, wordXnn_fields]

theorem Row.Encodes.xyn {f : Reg → Reg → Nibble → Instr}
    (h : ∀ x y n, encodeWord (f x y n) = wordXyn (fieldClass p) x y n)
    (hp : p &&& 0xF000 = p) : (⟨p, .xyn f⟩ : Row).Encodes := fun w hw => by
  have hc := (and_mask_class_iff hp).mp (beq_iff_eq.mp hw)
  rw [Format.instr, h, ← hc, wordXyn_fields]

theorem Row.Encodes.xy {f : Reg → Reg → Instr}
    (h : ∀ x y, encodeWord (f x y) = wordXyn (fieldClass p) x y (fieldN p))
    (hp : p &&& 0xF00F = p) : (⟨p, .xy f⟩ : Row).Encodes := fun w hw => by
  obtain ⟨hc, hn⟩ := (and_mask_xy_iff hp).mp (beq_iff_eq.mp hw)
  rw [Format.instr, h, ← hc, ← hn, wordXyn_fields]

theorem Row.Encodes.x {f : Reg → Instr} (h : ∀ x, encodeWord (f x) = wordXnn (fieldClass p) x (fieldNn p))
    (hp : p &&& 0xF0FF = p) : (⟨p, .x f⟩ : Row).Encodes := fun w hw => by
  obtain ⟨hc, hn⟩ := (and_mask_x_iff hp).mp (beq_iff_eq.mp hw)
  rw [Format.instr, h, ← hc, ← hn, wordXnn_fields]

end

theorem rowsAddress_encode : ∀ r ∈ rowsAddress, r.Encodes := by
  simp only [rowsAddress, List.forall_mem_cons, List.not_mem_nil, false_imp_iff, implies_true, and_true]
  exact ⟨.fixed rfl, .fixed rfl, .nnn (fun _ => rfl) rfl, .nnn (fun _ => rfl) rfl, .nnn (fun _ => rfl) rfl,
    .nnn (fun _ => rfl) rfl⟩

theorem rowsImmediate_encode : ∀ r ∈ rowsImmediate, r.Encodes := by
  simp only [rowsImmediate, List.forall_mem_cons, List.not_mem_nil, false_imp_iff, implies_true, and_true]
  exact ⟨.xnn (fun _ _ => rfl) rfl, .xnn (fun _ _ => rfl) rfl, .xnn (fun _ _ => rfl) rfl,
    .xnn (fun _ _ => rfl) rfl, .xnn (fun _ _ => rfl) rfl, .xyn (fun _ _ _ => rfl) rfl⟩

theorem rowsRegister_encode : ∀ r ∈ rowsRegister, r.Encodes := by
  simp only [rowsRegister, List.forall_mem_cons, List.not_mem_nil, false_imp_iff, implies_true, and_true]
  refine ⟨?_, ?_, ?_, ?_, ?_, ?_, ?_, ?_, ?_, ?_, ?_⟩ <;> exact .xy (fun _ _ => rfl) rfl

theorem rowsSubOpcode_encode : ∀ r ∈ rowsSubOpcode, r.Encodes := by
  simp only [rowsSubOpcode, List.forall_mem_cons, List.not_mem_nil, false_imp_iff, implies_true, and_true]
  refine ⟨?_, ?_, ?_, ?_, ?_, ?_, ?_, ?_, ?_, ?_, ?_⟩ <;> exact .x (fun _ => rfl) rfl

/-- Every row of the map drops no bit of a word it accepts. -/
theorem rows_encode {r : Row} (hr : r ∈ rows) : r.Encodes := by
  simp only [rows, List.mem_append] at hr
  rcases hr with ((hr | hr) | hr) | hr
  · exact rowsAddress_encode r hr
  · exact rowsImmediate_encode r hr
  · exact rowsRegister_encode r hr
  · exact rowsSubOpcode_encode r hr

/-! ### Rows and decoding (R74) -/

/-- A word that decodes is accepted by the row it decodes by. -/
theorem row_of_decodeWord {w : Word} {i : Instr} (h : decodeWord w = some i) :
    ∃ r ∈ rows, r.accepts w = true ∧ r.format.instr w = i := by
  obtain ⟨r, hfind, hi⟩ := Option.map_eq_some_iff.mp h
  exact ⟨r, List.mem_of_find?_eq_some hfind, by simpa using List.find?_some hfind, hi⟩

theorem decodeWord_eq_none {w : Word} (h : ∀ r ∈ rows, r.accepts w = false) : decodeWord w = none := by
  rw [decodeWord, List.find?_eq_none.mpr fun r hr => by rw [h r hr]; decide, Option.map_none]

/-- Of pairwise disjoint rows at most one accepts a word. -/
theorem length_filter_accepts_le (w : Word) {l : List Row} (h : l.Pairwise fun r q => r.disjoint q = true) :
    (l.filter fun r => r.accepts w).length ≤ 1 := by
  rcases hl : l.filter (fun r => r.accepts w) with _ | ⟨r, _ | ⟨q, rest⟩⟩
  · exact hl ▸ Nat.zero_le 1
  · exact hl ▸ Nat.le_refl 1
  · have hpair := h.filter fun r => r.accepts w
    have hacc : ∀ p ∈ l.filter (fun r => r.accepts w), p.accepts w = true := fun p hp => (List.mem_filter.mp hp).2
    rw [hl] at hpair hacc
    have hdisj : r.disjoint q = true := (List.pairwise_cons.mp hpair).1 q (by simp)
    have hq : q.accepts w = false := Row.not_both_accept hdisj (hacc r (by simp))
    exact absurd (hacc q (by simp)) (by simp [hq])

/-! ### The legal words (R76) -/

section
variable (w : Word)

theorem toNat_fieldClass : (fieldClass w).toNat = w.toNat / 4096 := by
  rw [fieldClass, BitVec.extractLsb'_toNat, Nat.shiftRight_eq_div_pow]
  omega

theorem toNat_fieldN : (fieldN w).toNat = w.toNat % 16 := by
  rw [fieldN, BitVec.extractLsb'_toNat, Nat.shiftRight_zero]

theorem toNat_fieldNn : (fieldNn w).toNat = w.toNat % 256 := by
  rw [fieldNn, BitVec.extractLsb'_toNat, Nat.shiftRight_zero]

variable {w}

/-- The words accepted by the rows of fixed words and addresses. -/
theorem any_rowsAddress : rowsAddress.any (fun r => r.accepts w) = true ↔
    w.toNat = 0x00E0 ∨ w.toNat = 0x00EE ∨ w.toNat / 4096 ∈ [0x1, 0x2, 0xA, 0xB] := by
  simp only [rowsAddress, List.any_cons, List.any_nil, Row.accepts, Format.mask, beq_iff_eq, Bool.or_eq_true]
  simp (disch := decide) only [and_mask_fixed, and_mask_class_iff]
  simp [BitVec.toNat_eq, toNat_fieldClass]

/-- The words accepted by the rows of immediates. -/
theorem any_rowsImmediate : rowsImmediate.any (fun r => r.accepts w) = true ↔
    w.toNat / 4096 ∈ [0x3, 0x4, 0x6, 0x7, 0xC, 0xD] := by
  simp only [rowsImmediate, List.any_cons, List.any_nil, Row.accepts, Format.mask, beq_iff_eq, Bool.or_eq_true]
  simp (disch := decide) only [and_mask_class_iff]
  simp [BitVec.toNat_eq, toNat_fieldClass]

/-- The words accepted by the rows of two registers. -/
theorem any_rowsRegister : rowsRegister.any (fun r => r.accepts w) = true ↔
    w.toNat / 4096 = 0x5 ∧ w.toNat % 16 = 0 ∨
    w.toNat / 4096 = 0x8 ∧ w.toNat % 16 ∈ [0x0, 0x1, 0x2, 0x3, 0x4, 0x5, 0x6, 0x7, 0xE] ∨
    w.toNat / 4096 = 0x9 ∧ w.toNat % 16 = 0 := by
  simp only [rowsRegister, List.any_cons, List.any_nil, Row.accepts, Format.mask, beq_iff_eq, Bool.or_eq_true]
  simp (disch := decide) only [and_mask_xy_iff]
  simp [BitVec.toNat_eq, toNat_fieldClass, toNat_fieldN, and_or_left, or_assoc]

/-- The words accepted by the rows of one register. -/
theorem any_rowsSubOpcode : rowsSubOpcode.any (fun r => r.accepts w) = true ↔
    w.toNat / 4096 = 0xE ∧ w.toNat % 256 ∈ [0x9E, 0xA1] ∨
    w.toNat / 4096 = 0xF ∧ w.toNat % 256 ∈ [0x07, 0x0A, 0x15, 0x18, 0x1E, 0x29, 0x33, 0x55, 0x65] := by
  simp only [rowsSubOpcode, List.any_cons, List.any_nil, Row.accepts, Format.mask, beq_iff_eq, Bool.or_eq_true]
  simp (disch := decide) only [and_mask_x_iff]
  simp [BitVec.toNat_eq, toNat_fieldClass, toNat_fieldNn, and_or_left, or_assoc]

theorem decodeWord_isSome : (decodeWord w).isSome = rows.any fun r => r.accepts w := by
  rw [decodeWord, Option.isSome_map, Bool.eq_iff_iff, List.find?_isSome, List.any_eq_true]

/-- R76: class by class, the rows accept what the list of illegal words leaves. -/
theorem any_rows_eq_legal : rows.any (fun r => r.accepts w) = Word.legal w := by
  rw [Bool.eq_iff_iff]
  simp only [rows, List.any_append, Bool.or_eq_true, any_rowsAddress, any_rowsImmediate, any_rowsRegister,
    any_rowsSubOpcode]
  have hclass : w.toNat / 4096 < 16 := by omega
  generalize hc : w.toNat / 4096 = c at hclass
  interval_cases c <;> simp [Word.legal, hc] <;> omega

end

end Sys2Proof

namespace Sys2Proof.Proofs

/-- Settles O1: the two bytes make the word again, and the word's own row is the only one that accepts it. -/
theorem decodeOfEncodeIsIdentity : Obligations.DecodeOfEncodeIsIdentity := by
  unfold Obligations.DecodeOfEncodeIsIdentity
  intro i rest
  refine ⟨decodeBytes_of_decodeWord ?_ rest, rfl⟩
  rw [Machine.wordOfBytes_high_low, decodeWord_encodeWord]

/-- Settles O2: the row a word decodes by fixes every bit that its operands do not carry (`rows_encode`). -/
theorem encodeOfDecodeIsIdentity : Obligations.EncodeOfDecodeIsIdentity := by
  unfold Obligations.EncodeOfDecodeIsIdentity
  intro w i hdec
  obtain ⟨r, hr, hacc, rfl⟩ := row_of_decodeWord hdec
  exact rows_encode hr w hacc

/-- Settles O3: the rows are pairwise disjoint, so the first row that accepts is the only one. -/
theorem opcodeRowsDecodeUniquely : Obligations.OpcodeRowsDecodeUniquely := by
  unfold Obligations.OpcodeRowsDecodeUniquely
  exact fun w => ⟨length_filter_accepts_le w rows_pairwise_disjoint, fun _ => decodeWord_of_row, decodeWord_eq_none⟩

/-- Settles O4: a word decodes when some row accepts it, and `any_rows_eq_legal` compares the rows with the list. -/
theorem decoderAcceptsExactlyLegalWords : Obligations.DecoderAcceptsExactlyLegalWords := by
  unfold Obligations.DecoderAcceptsExactlyLegalWords
  exact fun _ => decodeWord_isSome.trans any_rows_eq_legal

/-- Settles O5: ten fixed words, evaluated. -/
theorem writtenOutWordsDecode : Obligations.WrittenOutWordsDecode := by
  unfold Obligations.WrittenOutWordsDecode
  decide

end Sys2Proof.Proofs
end

section
/-! SUPPORT. PC writes and single control-transfer, random and index instructions: O7, O10, O11, O18 and O20
(spec/41_control_flow.md R113 to R119, spec/42_register_alu.md R141, spec/43_index_memory.md R151). -/

namespace Sys2Proof.Machine

/-! ### Decoding -/

/-- R75: a row of a 12-bit address, in the words of `DecodesAs`. -/
theorem decodesAs_nnn {pattern : Word} {f : Addr → Instr} (hr : ⟨pattern, .nnn f⟩ ∈ rowsAddress) :
    DecodesAs 0xF000 pattern fun w => f (fieldNnn w) :=
  decodesAs_of_row (List.mem_append_left _ (List.mem_append_left _ (List.mem_append_left _ hr)))

/-! ### Skips (R118) -/

section
variable (s : State)

theorem State.skipIf_keeps (c : Bool) : KeepsAllBut [.pc] s (s.skipIf c) := s.setPc_keeps _

/-- PC moves 2 further, mod 4096, exactly when the condition holds. -/
theorem State.toNat_skipIf_pc (c : Bool) :
    (s.skipIf c).pc.toNat = if c = true then (s.pc.toNat + 2) % 4096 else s.pc.toNat := by
  rw [State.skipIf_pc]
  split
  · exact BitVec.toNat_add _ _
  · rfl

/-! ### The instructions -/

theorem exec_jpV0 (nnn : Addr) :
    exec (.jpV0 nnn) s = .next (s.setPc (BitVec.ofNat 12 (nnn.toNat + (s.getV V0).toNat))) := rfl

theorem exec_seNn (x : Reg) (nn : Byte) : exec (.seNn x nn) s = .next (s.skipIf (s.getV x == nn)) := rfl

theorem exec_sneNn (x : Reg) (nn : Byte) : exec (.sneNn x nn) s = .next (s.skipIf (s.getV x != nn)) := rfl

theorem exec_seVy (x y : Reg) : exec (.seVy x y) s = .next (s.skipIf (s.getV x == s.getV y)) := rfl

theorem exec_sneVy (x y : Reg) : exec (.sneVy x y) s = .next (s.skipIf (s.getV x != s.getV y)) := rfl

theorem exec_rnd (x : Reg) (nn : Byte) : exec (.rnd x nn) s = .next (s.setV x (s.rnd &&& nn)) := rfl

theorem exec_addI (x : Reg) :
    exec (.addI x) s = .next (s.setI (BitVec.ofNat 16 (s.i.toNat + (s.getV x).toNat))) := rfl

end

end Sys2Proof.Machine

namespace Sys2Proof.Proofs

open Sys2Proof.Machine

/-- Settles O7: one write of PC, with the wrapped sum. -/
theorem jpV0AddsV0 : Obligations.JpV0AddsV0 := by
  unfold Obligations.JpV0AddsV0
  refine ⟨decodesAs_nnn (by simp [rowsAddress]), fun nnn s => ?_⟩
  exact ⟨_, exec_jpV0 s nnn, BitVec.toNat_ofNat _ _, s.setPc_keeps _⟩

/-- Settles O10: SP after the call is one up, so the return finds a slot in use and reads the one the call wrote. -/
theorem callThenReturnRestoresPc : Obligations.CallThenReturnRestoresPc := by
  unfold Obligations.CallThenReturnRestoresPc
  intro nnn s t r hinv hfree hcall hsp hslots
  obtain rfl := Host.Outcome.next.inj ((exec_call_of_free nnn hfree).symm.trans hcall)
  have hpush : (s.pushStack s.pc).sp.toNat = s.sp.toNat + 1 := State.toNat_pushStack_sp s.pc hinv hfree
  have hup : r.sp = s.sp + 1 := hsp
  have hne : r.sp ≠ 0 := fun h0 => by
    have h0' : (s.pushStack s.pc).sp.toNat = 0 := congrArg BitVec.toNat (hsp.symm.trans h0)
    omega
  have hdown : r.sp - 1 = s.sp := by rw [hup, BitVec.add_sub_cancel]
  have hslot : r.stackAt s.sp = s.pc := by
    rw [hslots, State.setPc_stackAt, State.stackAt_pushStack s s.pc s.sp (State.sp_lt_of_inv hinv hfree).1, if_pos rfl]
  refine ⟨_, exec_ret_of_ne hne, ?_, ?_, ?_⟩
  · rw [State.popStack_pc, hdown, hslot]
  · rw [State.popStack_sp, hdown]
  · rw [State.popStack_stackAt, State.popStack_sp, hdown, hslot]

/-- Settles O11: each skip is one write of PC under its condition (`State.toNat_skipIf_pc`). -/
theorem skipsFollowTheirConditions : Obligations.SkipsFollowTheirConditions := by
  unfold Obligations.SkipsFollowTheirConditions
  refine ⟨decodesAs_xnn (by simp [rowsImmediate]), decodesAs_xnn (by simp [rowsImmediate]),
    decodesAs_xy (by simp [rowsRegister]), decodesAs_xy (by simp [rowsRegister]), fun x y nn s => ⟨?_, ?_, ?_, ?_⟩⟩
  · exact ⟨_, exec_seNn s x nn, s.skipIf_keeps _, by simp only [State.toNat_skipIf_pc, beq_iff_eq]⟩
  · exact ⟨_, exec_sneNn s x nn, s.skipIf_keeps _, by simp only [State.toNat_skipIf_pc, bne_iff_ne]⟩
  · exact ⟨_, exec_seVy s x y, s.skipIf_keeps _, by simp only [State.toNat_skipIf_pc, beq_iff_eq]⟩
  · exact ⟨_, exec_sneVy s x y, s.skipIf_keeps _, by simp only [State.toNat_skipIf_pc, bne_iff_ne]⟩

/-- Settles O18: one register write of the masked input. -/
theorem randomIsInputUnderMask : Obligations.RandomIsInputUnderMask := by
  unfold Obligations.RandomIsInputUnderMask
  refine ⟨decodesAs_xnn (by simp [rowsImmediate]), fun x nn s => ?_⟩
  refine ⟨_, exec_rnd s x nn, fun k => ?_, s.setV_keepsRegs x _, s.setV_keeps x _⟩
  rw [State.getV_setV_self, BitVec.getLsbD_and]

/-- Settles O20: one write of I, with the wrapped sum. -/
theorem addIWrapsAtSixteenBits : Obligations.AddIWrapsAtSixteenBits := by
  unfold Obligations.AddIWrapsAtSixteenBits
  refine ⟨decodesAs_x (by simp [rowsSubOpcode]), fun x s => ?_⟩
  exact ⟨_, exec_addI s x, BitVec.toNat_ofNat _ _, s.setI_keeps _⟩

end Sys2Proof.Proofs
end

section
/-! SUPPORT. Memory writes and the instructions that move bytes between registers and memory: O22 to O25
(spec/43_index_memory.md R153 to R156, spec/20_memory.md R54). -/

namespace Sys2Proof.Machine

variable (s : State)

/-! ### Memory and its frames -/

theorem State.writeByte_keeps (a : Addr) (b : Byte) : KeepsAllBut [.memory] s (s.writeByte a b) := by
  intro p hp
  cases p
  case memory => simp at hp
  all_goals simp [Part.Same]

theorem State.storeBlock_keeps (x : Reg) : KeepsAllBut [.memory] s (s.storeBlock x) := by
  obtain ⟨mem, hstore, -⟩ := s.storeBlock_eq x
  rw [hstore]
  intro p hp
  cases p
  case memory => simp at hp
  all_goals simp [Part.Same, State.getV, State.stackAt, State.cell]

theorem State.loadBlock_keeps (x : Reg) : KeepsAllBut [.registers] s (s.loadBlock x) := by
  obtain ⟨v, hload⟩ := s.loadBlock_eq x
  rw [hload]
  intro p hp
  cases p
  case registers => simp at hp
  all_goals simp [Part.Same, State.readByte, State.stackAt, State.cell]

/-! ### Operands (R53) -/

theorem State.toNat_ea (k : Nat) : (s.ea k).toNat = (s.i.toNat + k) % 4096 := BitVec.toNat_ofNat _ _

/-- The next address is the next byte of the operand, past 0xFFF too. -/
theorem State.ea_add_one (k : Nat) : s.ea k + 1 = s.ea (k + 1) := by
  apply BitVec.eq_of_toNat_eq
  have h1 : (1 : Addr).toNat = 1 := rfl
  rw [BitVec.toNat_add, State.toNat_ea, State.toNat_ea]
  omega

theorem State.ea_ne {j k : Nat} (hj : j < 4096) (hk : k < 4096) (h : j ≠ k) : s.ea j ≠ s.ea k :=
  fun he => h ((s.ea_inj hj hk).mp he)

theorem State.toNat_iPast (x : Reg) : (s.iPast x).toNat = (s.i.toNat + x.toNat + 1) % 65536 :=
  BitVec.toNat_ofNat _ _

/-! ### Decimal digits (R153) -/

theorem toNat_hundreds (b : Byte) : (hundreds b).toNat = b.toNat / 100 := by
  rw [hundreds, BitVec.toNat_ofNat]
  omega

theorem toNat_tens (b : Byte) : (tens b).toNat = b.toNat / 10 % 10 := by
  rw [tens, BitVec.toNat_ofNat]
  omega

theorem toNat_ones (b : Byte) : (ones b).toNat = b.toNat % 10 := by
  rw [ones, BitVec.toNat_ofNat]
  omega

/-- Fx33's three writes. -/
def State.storeDigits (x : Reg) : State :=
  ((s.writeByte (s.ea 0) (hundreds (s.getV x))).writeByte (s.ea 1) (tens (s.getV x))).writeByte (s.ea 2)
    (ones (s.getV x))

/-- The three addresses differ, so each write stands; the digits are read back in the order hundreds, tens, ones. -/
theorem State.readByte_storeDigits (x : Reg) (a : Addr) : (s.storeDigits x).readByte a =
    if a = s.ea 0 then hundreds (s.getV x) else if a = s.ea 1 then tens (s.getV x)
      else if a = s.ea 2 then ones (s.getV x) else s.readByte a := by
  have h01 : s.ea 0 ≠ s.ea 1 := s.ea_ne (by decide) (by decide) (by decide)
  have h02 : s.ea 0 ≠ s.ea 2 := s.ea_ne (by decide) (by decide) (by decide)
  have h12 : s.ea 1 ≠ s.ea 2 := s.ea_ne (by decide) (by decide) (by decide)
  simp only [State.storeDigits, State.readByte_writeByte]
  by_cases h0 : a = s.ea 0
  · simp [h0, h01, h02]
  · by_cases h1 : a = s.ea 1
    · simp [h1, h12, h01.symm]
    · simp [h0, h1]

theorem State.storeDigits_keeps (x : Reg) : KeepsAllBut [.memory] s (s.storeDigits x) :=
  (((s.writeByte_keeps _ _).trans (State.writeByte_keeps _ _ _)).trans (State.writeByte_keeps _ _ _)).mono (by decide)

/-! ### The instructions -/

theorem exec_ldB (x : Reg) : exec (.ldB x) s = .next (s.storeDigits x) := rfl

theorem exec_ldMemVx (x : Reg) : exec (.ldMemVx x) s = .next ((s.storeBlock x).setI (s.iPast x)) := rfl

theorem exec_ldVxMem (x : Reg) : exec (.ldVxMem x) s = .next ((s.loadBlock x).setI (s.iPast x)) := rfl

/-- Fx55 stores `V[r]` at byte r of its operand, for r up to x. -/
theorem State.readByte_storeBlock {x r : Reg} (hr : r.toNat ≤ x.toNat) :
    (s.storeBlock x).readByte (s.ea r.toNat) = s.getV r := by
  rw [s.storeBlock_in x hr, BitVec.ofNat_toNat, BitVec.setWidth_eq]

end Sys2Proof.Machine

namespace Sys2Proof.Proofs

open Sys2Proof.Machine

/-- Settles O22: three byte writes at three different addresses (`State.readByte_storeDigits`). -/
theorem bcdStoresThreeDigits : Obligations.BcdStoresThreeDigits := by
  unfold Obligations.BcdStoresThreeDigits
  refine ⟨decodesAs_x (by simp [rowsSubOpcode]), fun x s => ?_⟩
  have h01 : s.ea 1 ≠ s.ea 0 := s.ea_ne (by decide) (by decide) (by decide)
  have h02 : s.ea 2 ≠ s.ea 0 := s.ea_ne (by decide) (by decide) (by decide)
  have h12 : s.ea 2 ≠ s.ea 1 := s.ea_ne (by decide) (by decide) (by decide)
  refine ⟨_, exec_ldB s x, s.toNat_ea, ?_, ?_, ?_, fun a h0 h1 h2 => ?_, s.storeDigits_keeps x⟩
  · rw [s.readByte_storeDigits, if_pos rfl, toNat_hundreds]
  · rw [s.readByte_storeDigits, if_neg h01, if_pos rfl, toNat_tens]
  · rw [s.readByte_storeDigits, if_neg h02, if_neg h12, if_pos rfl, toNat_ones]
  · rw [s.readByte_storeDigits, if_neg h0, if_neg h1, if_neg h2]

/-- Settles O23: the block store, then one write of I. -/
theorem blockStoreWritesRegisters : Obligations.BlockStoreWritesRegisters := by
  unfold Obligations.BlockStoreWritesRegisters
  refine ⟨decodesAs_x (by simp [rowsSubOpcode]), fun x s => ?_⟩
  exact ⟨_, exec_ldMemVx s x, s.toNat_ea, fun r hr => s.readByte_storeBlock hr, fun a ha => s.storeBlock_out x ha,
    s.toNat_iPast x, (s.storeBlock_keeps x).trans (State.setI_keeps _ _)⟩

/-- Settles O24: the block load, then one write of I. -/
theorem blockLoadReadsRegisters : Obligations.BlockLoadReadsRegisters := by
  unfold Obligations.BlockLoadReadsRegisters
  refine ⟨decodesAs_x (by simp [rowsSubOpcode]), fun x s => ?_⟩
  refine ⟨_, exec_ldVxMem s x, s.toNat_ea, fun r hr => ?_, fun r hr => ?_, s.toNat_iPast x,
    (s.loadBlock_keeps x).trans (State.setI_keeps _ _)⟩
  · rw [State.setI_getV, State.getV_loadBlock, if_pos hr]
  · rw [State.setI_getV, State.getV_loadBlock, if_neg (by omega)]

/-- Settles O25: the fetch reads bytes 0 and 1 of the operand, where the block store put V0 and V1. -/
theorem storeIsSeenByTheNextFetch : Obligations.StoreIsSeenByTheNextFetch := by
  unfold Obligations.StoreIsSeenByTheNextFetch
  intro x s t hx hexec
  cases hexec
  have hhi : (s.storeBlock x).readByte (s.ea 0) = s.getV 0 := s.readByte_storeBlock (r := 0) (Nat.zero_le _)
  have hlo : (s.storeBlock x).readByte (s.ea 0 + 1) = s.getV 1 := by
    rw [State.ea_add_one]
    exact s.readByte_storeBlock (r := 1) hx
  show wordOfBytes ((s.storeBlock x).readByte (s.ea 0)) ((s.storeBlock x).readByte (s.ea 0 + 1)) = _
  rw [hhi, hlo]

end Sys2Proof.Proofs
end

section
/-! SUPPORT. What drawing a sprite does to a cell and to VF, and O27 to O29 (spec/44_display.md R171 to R174). -/

namespace Sys2Proof.Machine

/-! ### The blit, cell by cell -/

section
variable (s : State) {x0 y0 : Byte} {n : Nat} {row : Fin 32} {col : Fin 64}

theorem State.cell_blit_of_covers (hn : n ≤ 32) (h : SpriteCovers s x0 y0 n row col) :
    (s.blit x0 y0 n).1.cell row col = !s.cell row col := by
  have hcell := (blitRows_spec s x0 y0 n hn).1 row col
  simpa only [← spriteCovers_iff, h, decide_true, Bool.xor_true] using hcell

theorem State.cell_blit_of_not_covers (hn : n ≤ 32) (h : ¬SpriteCovers s x0 y0 n row col) :
    (s.blit x0 y0 n).1.cell row col = s.cell row col := by
  have hcell := (blitRows_spec s x0 y0 n hn).1 row col
  simpa only [← spriteCovers_iff, h, decide_false, Bool.xor_false] using hcell

/-- R174: the collision flag is set exactly when a covered cell was lit. -/
theorem State.blit_flag_iff (hn : n ≤ 32) : (s.blit x0 y0 n).2 = true ↔
    ∃ row col, SpriteCovers s x0 y0 n row col ∧ s.cell row col = true := by
  rw [(blitRows_spec s x0 y0 n hn).2]
  constructor
  · rintro ⟨r, hr, c, hc, hbit, hlit⟩
    exact ⟨_, _, (spriteCovers_iff s x0 y0 n _ _).mpr ⟨r, hr, rfl, c, hc, hbit, rfl⟩, hlit⟩
  · rintro ⟨row, col, hcov, hlit⟩
    obtain ⟨r, hr, rfl, c, hc, hbit, rfl⟩ := (spriteCovers_iff s x0 y0 n row col).mp hcov
    exact ⟨r, hr, c, hc, hbit, hlit⟩

end

/-! ### Dxyn -/

/-- What Dxyn leaves: the display with the sprite drawn, then the flag. -/
def State.drawSprite (s : State) (x y : Reg) (n : Nibble) : State :=
  (s.setFb (s.blit (s.getV x) (s.getV y) n.toNat).1).setV VF (flagByte (s.blit (s.getV x) (s.getV y) n.toNat).2)

theorem exec_drw (x y : Reg) (n : Nibble) (s : State) : exec (.drw x y n) s = .next (s.drawSprite x y n) := rfl

/-- The sprite that Dxyn draws covers this cell. -/
def State.Draws (s : State) (x y : Reg) (n : Nibble) : Fin 32 → Fin 64 → Prop :=
  SpriteCovers s (s.getV x) (s.getV y) n.toNat

section
variable (s : State) {x y : Reg} {n : Nibble} {row : Fin 32} {col : Fin 64}

theorem toNat_nibble_le (n : Nibble) : n.toNat ≤ 32 := by omega

theorem State.cell_drawSprite_of_draws (h : s.Draws x y n row col) :
    (s.drawSprite x y n).cell row col = !s.cell row col :=
  s.cell_blit_of_covers (toNat_nibble_le n) h

theorem State.cell_drawSprite_of_not_draws (h : ¬s.Draws x y n row col) :
    (s.drawSprite x y n).cell row col = s.cell row col :=
  s.cell_blit_of_not_covers (toNat_nibble_le n) h

/-- A cell goes out exactly when the sprite covers it and it was lit. -/
theorem State.goes_out_iff : s.cell row col = true ∧ (s.drawSprite x y n).cell row col = false ↔
    s.Draws x y n row col ∧ s.cell row col = true := by
  by_cases h : s.Draws x y n row col
  · rw [s.cell_drawSprite_of_draws h]
    simp [h]
  · rw [s.cell_drawSprite_of_not_draws h]
    simp [h]

variable (x y n)

theorem State.getV_VF_drawSprite :
    (s.drawSprite x y n).getV VF = flagByte (s.blit (s.getV x) (s.getV y) n.toNat).2 :=
  State.getV_setV_self _ VF _

theorem flagByte_eq_one {f : Bool} : flagByte f = 1 ↔ f = true := by
  cases f <;> decide

theorem flagByte_eq_zero {f : Bool} : flagByte f = 0 ↔ ¬f = true := by
  cases f <;> decide

/-- R174: VF is 1 exactly when the sprite covers a lit cell. -/
theorem State.drawSprite_VF_eq_one :
    (s.drawSprite x y n).getV VF = 1 ↔ ∃ row col, s.Draws x y n row col ∧ s.cell row col = true := by
  rw [s.getV_VF_drawSprite, flagByte_eq_one, s.blit_flag_iff (toNat_nibble_le n)]
  rfl

theorem State.drawSprite_VF_eq_zero :
    (s.drawSprite x y n).getV VF = 0 ↔ ¬∃ row col, s.Draws x y n row col ∧ s.cell row col = true := by
  rw [s.getV_VF_drawSprite, flagByte_eq_zero, s.blit_flag_iff (toNat_nibble_le n)]
  rfl

theorem State.drawSprite_keepsRegs : KeepsRegsBut [VF] s (s.drawSprite x y n) :=
  (s.setFb _).setV_keepsRegs VF _

theorem State.drawSprite_keeps : KeepsAllBut [.display, .registers] s (s.drawSprite x y n) :=
  (s.setFb_keeps _).trans (State.setV_keeps _ VF _)

/-- A second Dxyn covers the same cells, when neither operand is the flag the first one writes. -/
theorem State.draws_drawSprite {x y : Reg} (hx : x ≠ VF) (hy : y ≠ VF) :
    (s.drawSprite x y n).Draws x y n = s.Draws x y n := by
  have hkeeps := s.drawSprite_keepsRegs x y n
  show SpriteCovers s ((s.drawSprite x y n).getV x) ((s.drawSprite x y n).getV y) n.toNat = _
  rw [hkeeps x (by simpa using hx), hkeeps y (by simpa using hy)]
  rfl

/-- Inverting the covered cells twice leaves every cell as it was. -/
theorem State.cell_drawSprite_twice {x y : Reg} (hx : x ≠ VF) (hy : y ≠ VF) (row : Fin 32) (col : Fin 64) :
    ((s.drawSprite x y n).drawSprite x y n).cell row col = s.cell row col := by
  by_cases h : s.Draws x y n row col
  · rw [State.cell_drawSprite_of_draws _ ((s.draws_drawSprite n hx hy).symm ▸ h), s.cell_drawSprite_of_draws h,
      Bool.not_not]
  · rw [State.cell_drawSprite_of_not_draws _ ((s.draws_drawSprite n hx hy).symm ▸ h),
      s.cell_drawSprite_of_not_draws h]

/-- On a blank display the lit cells after a draw are the covered ones. -/
theorem State.cell_drawSprite_of_blank (hblank : ∀ row col, s.cell row col = false) (row : Fin 32) (col : Fin 64) :
    (s.drawSprite x y n).cell row col = true ↔ s.Draws x y n row col := by
  by_cases h : s.Draws x y n row col
  · simp [s.cell_drawSprite_of_draws h, hblank, h]
  · simp [s.cell_drawSprite_of_not_draws h, hblank, h]

end

end Sys2Proof.Machine

namespace Sys2Proof.Proofs

open Sys2Proof.Machine

/-- Settles O27: the blit inverts the covered cells (`blitRows_spec`), and VF is the one register written. -/
theorem drwInvertsCoveredCells : Obligations.DrwInvertsCoveredCells := by
  unfold Obligations.DrwInvertsCoveredCells
  refine ⟨decodesAs_of_row (r := ⟨0xD000, .xyn .drw⟩) (mem_rows_of_immediate (by simp [rowsImmediate])),
    fun x y n s => ?_⟩
  exact ⟨_, exec_drw x y n s, fun _ _ => s.cell_drawSprite_of_draws, fun _ _ => s.cell_drawSprite_of_not_draws,
    s.drawSprite_keepsRegs x y n, s.drawSprite_keeps x y n⟩

/-- Settles O28: the flag is set when a covered cell was lit, and those are the cells that go out. -/
theorem drwFlagsCollision : Obligations.DrwFlagsCollision := by
  unfold Obligations.DrwFlagsCollision
  intro x y n s
  refine ⟨_, exec_drw x y n s, ?_, ?_, s.drawSprite_VF_eq_one x y n⟩
  · simp only [State.goes_out_iff]
    exact (s.drawSprite_VF_eq_one x y n).mpr
  · simp only [State.goes_out_iff]
    exact (s.drawSprite_VF_eq_zero x y n).mpr

/-- Settles O29: the second draw covers the same cells, and on a blank display those are the cells the first one
lit. -/
theorem drawingTwiceRestoresDisplay : Obligations.DrawingTwiceRestoresDisplay := by
  unfold Obligations.DrawingTwiceRestoresDisplay
  intro x y n s t u hx hy hfirst hsecond
  obtain rfl := Host.Outcome.next.inj ((exec_drw x y n s).symm.trans hfirst)
  obtain rfl := Host.Outcome.next.inj ((exec_drw x y n _).symm.trans hsecond)
  refine ⟨s.cell_drawSprite_twice n hx hy, fun hblank => ⟨?_, ?_⟩⟩
  · refine (s.drawSprite_VF_eq_zero x y n).mpr ?_
    rintro ⟨row, col, -, hlit⟩
    exact absurd (hblank row col) (by rw [hlit]; decide)
  · refine (State.drawSprite_VF_eq_one _ x y n).trans ?_
    simp only [s.draws_drawSprite n hx hy]
    refine exists_congr fun row => exists_congr fun col => ?_
    have hlit := s.cell_drawSprite_of_blank x y n hblank row col
    exact ⟨And.right, fun h => ⟨hlit.mp h, h⟩⟩

end Sys2Proof.Proofs
end

section
/-! SUPPORT. The keypad and timer instructions, and O30 to O32 (spec/45_keypad_timer_io.md R181 to R189). -/

namespace Sys2Proof.Machine

section
variable (s : State)

/-! ### Frames of the key-wait register, the timers and a delivery -/

theorem State.setKw_keeps (k : Option Reg) : KeepsAllBut [.keyWait] s (s.setKw k) := by
  intro p hp
  cases p
  case keyWait => simp at hp
  all_goals simp [Part.Same]

theorem State.setDt_keeps (b : Byte) : KeepsAllBut [.delayTimer] s (s.setDt b) := by
  intro p hp
  cases p
  case delayTimer => simp at hp
  all_goals simp [Part.Same]

theorem State.setSt_keeps (b : Byte) : KeepsAllBut [.soundTimer] s (s.setSt b) := by
  intro p hp
  cases p
  case soundTimer => simp at hp
  all_goals simp [Part.Same]

theorem State.emit_keeps (e : Event) : KeepsAllBut [.events] s (s.emit e) := by
  intro p hp
  cases p
  case events => simp at hp
  all_goals simp [Part.Same]

variable (x : Reg)

theorem State.deliverKey_keeps : KeepsAllBut [.registers, .events] s (s.deliverKey x) :=
  (s.setV_keeps x _).trans (State.emit_keeps _ _)

theorem State.deliverKey_keepsRegs : KeepsRegsBut [x] s (s.deliverKey x) := s.setV_keepsRegs x _

theorem State.toNat_getV_deliverKey : ((s.deliverKey x).getV x).toNat = (lowestKey s.keys).toNat := by
  rw [State.deliverKey, State.emit_getV, State.getV_setV_self, BitVec.toNat_setWidth_of_le (by decide)]

/-! ### The instructions -/

theorem exec_skp : exec (.skp x) s = .next (s.skipIf (s.keyPressed x)) := rfl

theorem exec_sknp : exec (.sknp x) s = .next (s.skipIf (!s.keyPressed x)) := rfl

theorem exec_ldVxDt : exec (.ldVxDt x) s = .next (s.setV x s.dt) := rfl

theorem exec_ldDtVx : exec (.ldDtVx x) s = .next (s.setDt (s.getV x)) := rfl

theorem exec_ldStVx : exec (.ldStVx x) s = .next (s.setSt (s.getV x)) := rfl

variable {s}

theorem exec_ldVxK_of_none (h : s.keys = 0) : exec (.ldVxK x) s = .next (s.setKw (some x)) :=
  congrArg _ (if_pos h)

theorem exec_ldVxK_of_some (h : s.keys ≠ 0) : exec (.ldVxK x) s = .next (s.deliverKey x) :=
  congrArg _ (if_neg h)

end

end Sys2Proof.Machine

namespace Sys2Proof.Proofs

open Sys2Proof.Machine

/-- Settles O30: both are one write of PC under the key's bit. -/
theorem keySkipsFollowTheKey : Obligations.KeySkipsFollowTheKey := by
  unfold Obligations.KeySkipsFollowTheKey
  refine ⟨decodesAs_x (by simp [rowsSubOpcode]), decodesAs_x (by simp [rowsSubOpcode]), fun x s => ⟨?_, ?_⟩⟩
  · exact ⟨_, exec_skp s x, s.skipIf_keeps _, s.toNat_skipIf_pc _⟩
  · refine ⟨_, exec_sknp s x, s.skipIf_keeps _, (s.toNat_skipIf_pc _).trans ?_⟩
    simp only [Bool.not_eq_true', State.keyPressed]

/-- Settles O31: with no key one write of KW; else the delivery of the lowest key (`lowestKey_spec`). -/
theorem keyReadWaitsOrDelivers : Obligations.KeyReadWaitsOrDelivers := by
  unfold Obligations.KeyReadWaitsOrDelivers
  refine ⟨decodesAs_x (by simp [rowsSubOpcode]), fun x s => ⟨fun hkeys => ?_, fun hkeys => ?_⟩⟩
  · exact ⟨_, exec_ldVxK_of_none x hkeys, rfl, s.setKw_keeps _⟩
  · obtain ⟨hpressed, hlower⟩ := lowestKey_spec s.keys hkeys
    exact ⟨_, lowestKey s.keys, exec_ldVxK_of_some x hkeys, hpressed, hlower, s.toNat_getV_deliverKey x,
      s.deliverKey_keepsRegs x, rfl, s.deliverKey_keeps x⟩

/-- Settles O32: one write each, of a register or of a timer. -/
theorem timerInstructionsMoveBytes : Obligations.TimerInstructionsMoveBytes := by
  unfold Obligations.TimerInstructionsMoveBytes
  refine ⟨decodesAs_x (by simp [rowsSubOpcode]), decodesAs_x (by simp [rowsSubOpcode]),
    decodesAs_x (by simp [rowsSubOpcode]), fun x s => ⟨?_, ?_, ?_⟩⟩
  · exact ⟨_, exec_ldVxDt s x, s.getV_setV_self x _, s.setV_keepsRegs x _, s.setV_keeps x _⟩
  · exact ⟨_, exec_ldDtVx s x, rfl, s.setDt_keeps _⟩
  · exact ⟨_, exec_ldStVx s x, rfl, s.setSt_keeps _⟩

end Sys2Proof.Proofs
end

section
/-! SUPPORT. What any instruction may write and which inputs it reads, and O33 to O35 (spec/10_state.md sections 2
to 9, spec/40_dispatch_cycle.md R95). -/

namespace Sys2Proof.Machine

/-! ### The parts an instruction writes -/

/-- Every instruction keeps the parts outside its list. -/
theorem exec_keeps {i : Instr} {s t : State} (h : exec i s = .next t) : KeepsAllBut (Instr.writes i) s t := by
  cases i
  case ret =>
    by_cases hsp : s.sp = 0
    · obtain rfl := Host.Outcome.next.inj ((exec_ret_of_zero hsp).symm.trans h)
      exact (s.raise_keeps _).mono (by simp [Instr.writes])
    · obtain rfl := Host.Outcome.next.inj ((exec_ret_of_ne hsp).symm.trans h)
      exact s.popStack_keeps.mono (by simp [Instr.writes])
  case call nnn =>
    by_cases hsp : s.sp.toNat = s.cfg.stackCap
    · obtain rfl := Host.Outcome.next.inj ((exec_call_of_full nnn hsp).symm.trans h)
      exact (s.raise_keeps _).mono (by simp [Instr.writes])
    · obtain rfl := Host.Outcome.next.inj ((exec_call_of_free nnn hsp).symm.trans h)
      exact ((s.pushStack_keeps _).trans (State.setPc_keeps _ _)).mono (by simp [Instr.writes])
  case ldVxK x =>
    by_cases hkeys : s.keys = 0
    · obtain rfl := Host.Outcome.next.inj ((exec_ldVxK_of_none x hkeys).symm.trans h)
      exact (s.setKw_keeps _).mono (by simp [Instr.writes])
    · obtain rfl := Host.Outcome.next.inj ((exec_ldVxK_of_some x hkeys).symm.trans h)
      exact (s.deliverKey_keeps x).mono (by simp [Instr.writes])
  all_goals cases h
  case cls => exact s.setFb_keeps _
  case drw x y n => exact s.drawSprite_keeps x y n
  case jp | jpV0 => exact s.setPc_keeps _
  case seNn | sneNn | seVy | sneVy | skp | sknp => exact s.skipIf_keeps _
  case ldNn x _ | addNn x _ | ldVy x _ | orVy x _ | andVy x _ | xorVy x _ | rnd x _ | ldVxDt x =>
    exact s.setV_keeps x _
  case addVy x _ | subVy x _ | shrVy x _ | subnVy x _ | shlVy x _ => exact s.setWithFlag_keeps x _ _
  case ldI | addI | ldF => exact s.setI_keeps _
  case ldDtVx => exact s.setDt_keeps _
  case ldStVx => exact s.setSt_keeps _
  case ldB x => exact s.storeDigits_keeps x
  case ldMemVx x => exact (s.storeBlock_keeps x).trans (State.setI_keeps _ _)
  case ldVxMem x => exact (s.loadBlock_keeps x).trans (State.setI_keeps _ _)

/-! ### The registers an instruction writes (R21, R22) -/

/-- A register changes only as a destination, or as VF by a flag setter. -/
theorem exec_getV {i : Instr} {s t : State} (h : exec i s = .next t) {r : Reg} (hdest : Instr.isDest r i = false)
    (hflag : r ≠ VF ∨ Instr.setsFlag i = false) : t.getV r = s.getV r := by
  cases i
  case ldNn x _ | addNn x _ | ldVy x _ | orVy x _ | andVy x _ | xorVy x _ | rnd x _ | ldVxDt x =>
    cases h
    exact s.setV_keepsRegs x _ r (by simpa [Instr.isDest] using hdest)
  case addVy x _ | subVy x _ | shrVy x _ | subnVy x _ | shlVy x _ =>
    cases h
    have hx : r ≠ x := by simpa [Instr.isDest] using hdest
    have hVF : r ≠ VF := by simpa [Instr.setsFlag] using hflag
    exact s.setWithFlag_keepsRegs x _ _ r (by simpa [hx] using hVF)
  case drw x y n =>
    cases h
    have hVF : r ≠ VF := by simpa [Instr.setsFlag] using hflag
    exact s.drawSprite_keepsRegs x y n r (by simpa using hVF)
  case ldVxK x =>
    by_cases hkeys : s.keys = 0
    · obtain rfl := Host.Outcome.next.inj ((exec_ldVxK_of_none x hkeys).symm.trans h)
      rfl
    · obtain rfl := Host.Outcome.next.inj ((exec_ldVxK_of_some x hkeys).symm.trans h)
      exact s.deliverKey_keepsRegs x r (by simpa [Instr.isDest] using hdest)
  case ldVxMem x =>
    cases h
    have hx : ¬r.toNat ≤ x.toNat := by simpa [Instr.isDest] using hdest
    rw [State.setI_getV, State.getV_loadBlock, if_neg hx]
  all_goals exact exec_keeps h .registers (by simp [Instr.writes]) r

/-- A flag is 0 or 1. -/
theorem flagByte_zero_or_one (f : Bool) : flagByte f = 0 ∨ flagByte f = 1 := by
  cases f <;> decide

theorem exec_getV_VF_of_setsFlag {i : Instr} {s t : State} (h : exec i s = .next t)
    (hflag : Instr.setsFlag i = true) : t.getV VF = 0 ∨ t.getV VF = 1 := by
  cases i
  case addVy x _ | subVy x _ | shrVy x _ | subnVy x _ | shlVy x _ =>
    cases h
    rw [State.getV_setWithFlag_VF]
    exact flagByte_zero_or_one _
  case drw x y n =>
    obtain rfl := Host.Outcome.next.inj ((exec_drw x y n s).symm.trans h)
    rw [State.getV_VF_drawSprite]
    exact flagByte_zero_or_one _
  all_goals cases hflag

/-! ### The inputs an instruction reads (R95) -/

section
variable (s : State) (input : Input)

theorem State.storeBlock_sample (x : Reg) : (s.sample input).storeBlock x = (s.storeBlock x).sample input :=
  List.foldl_hom (fun t => State.sample t input) fun _ _ => rfl

theorem State.loadBlock_sample (x : Reg) : (s.sample input).loadBlock x = (s.loadBlock x).sample input :=
  List.foldl_hom (fun t => State.sample t input) fun _ _ => rfl

theorem State.keyPressed_sample (x : Reg) (h : input.keys = s.keys) :
    (s.sample input).keyPressed x = s.keyPressed x := by
  rw [State.keyPressed, State.sample_keys, h, State.sample_getV]
  rfl

end

/-- Other inputs make no difference to an instruction that does not read the ones that differ. -/
theorem exec_sample {i : Instr} {s t : State} {input : Input} (h : exec i s = .next t)
    (hkeys : Instr.readsKeys i = false ∨ input.keys = s.keys)
    (hrnd : Instr.readsRnd i = false ∨ input.rnd = s.rnd) :
    exec i (s.sample input) = .next (t.sample input) := by
  cases i
  case skp x | sknp x =>
    cases h
    have hsame : input.keys = s.keys := by simpa [Instr.readsKeys] using hkeys
    simp only [exec_skp, exec_sknp, s.keyPressed_sample input x hsame]
    rfl
  case ldVxK x =>
    have hsame : (s.sample input).keys = s.keys := by simpa [Instr.readsKeys] using hkeys
    by_cases hnone : s.keys = 0
    · obtain rfl := Host.Outcome.next.inj ((exec_ldVxK_of_none x hnone).symm.trans h)
      exact exec_ldVxK_of_none x (hsame.trans hnone)
    · obtain rfl := Host.Outcome.next.inj ((exec_ldVxK_of_some x hnone).symm.trans h)
      rw [exec_ldVxK_of_some x (hsame ▸ hnone), State.deliverKey, hsame]
      rfl
  case rnd x nn =>
    cases h
    have hsame : input.rnd = s.rnd := by simpa [Instr.readsRnd] using hrnd
    rw [exec_rnd, State.sample_rnd, hsame]
    rfl
  case ret =>
    by_cases hsp : s.sp = 0
    · obtain rfl := Host.Outcome.next.inj ((exec_ret_of_zero hsp).symm.trans h)
      exact exec_ret_of_zero hsp
    · obtain rfl := Host.Outcome.next.inj ((exec_ret_of_ne hsp).symm.trans h)
      exact exec_ret_of_ne hsp
  case call nnn =>
    by_cases hsp : s.sp.toNat = s.cfg.stackCap
    · obtain rfl := Host.Outcome.next.inj ((exec_call_of_full nnn hsp).symm.trans h)
      exact exec_call_of_full nnn hsp
    · obtain rfl := Host.Outcome.next.inj ((exec_call_of_free nnn hsp).symm.trans h)
      exact exec_call_of_free nnn hsp
  case ldMemVx x =>
    cases h
    rw [exec_ldMemVx, State.storeBlock_sample]
    rfl
  case ldVxMem x =>
    cases h
    rw [exec_ldVxMem, State.loadBlock_sample]
    rfl
  all_goals
    cases h
    rfl

end Sys2Proof.Machine

namespace Sys2Proof.Proofs

open Sys2Proof.Machine

/-- Settles O33, an instruction at a time (`exec_getV`, `exec_getV_VF_of_setsFlag`). -/
theorem registersChangeOnlyAsNamed : Obligations.RegistersChangeOnlyAsNamed := by
  unfold Obligations.RegistersChangeOnlyAsNamed
  exact fun i s t hexec => ⟨fun r => exec_getV hexec, exec_getV_VF_of_setsFlag hexec⟩

/-- Settles O34, an instruction at a time (`exec_keeps`). -/
theorem eachPartHasItsWriters : Obligations.EachPartHasItsWriters := by
  unfold Obligations.EachPartHasItsWriters
  exact fun i s t => exec_keeps

/-- Settles O35: each half changes one input and keeps the other (`exec_sample`). -/
theorem inputsAreReadByTheirInstructionsOnly : Obligations.InputsAreReadByTheirInstructionsOnly := by
  unfold Obligations.InputsAreReadByTheirInstructionsOnly
  intro i s t input hexec
  exact ⟨fun h => exec_sample hexec (.inl h) (.inr rfl), fun h => exec_sample hexec (.inr rfl) (.inl h)⟩

end Sys2Proof.Proofs
end

section
/-! SUPPORT. The invariant through every command, and the whole-machine rules O45 to O49 (spec/10_state.md sections 5
and 9, spec/60_exceptions.md sections 2 and 6). -/

namespace Sys2Proof.Machine

/-! ### A property kept by steps is kept by a batch (R210) -/

/-- What every step keeps, and the end of a frame, a batch keeps. -/
theorem State.runBatch_induction {P : State → Prop}
    (hstep : ∀ {s t : State} {input : Input}, P s → s.stepWith input = .next t → P t)
    (hframe : ∀ s : State, P s → P s.endFrame) {s t : State} {inputs : List Input} (hs : P s)
    (h : s.runBatch inputs = .next t) : P t := by
  induction inputs generalizing s with
  | nil =>
    cases h
    exact hframe s hs
  | cons input rest ih =>
    obtain ⟨u, hu, ⟨-, rfl⟩ | ⟨-, hrest⟩⟩ := s.runBatch_cons h
    · exact hstep hs hu
    · exact ih (hstep hs hu) hrest

/-- What every step keeps, the end of a frame and the answer, a tick keeps. -/
theorem State.tickWith_induction {P : State → Prop}
    (hstep : ∀ {s t : State} {input : Input}, P s → s.stepWith input = .next t → P t)
    (hframe : ∀ s : State, P s → P s.endFrame) (hanswer : ∀ (s : State) (r : Result), P s → P (s.answer r))
    {s t : State} {inputs : List Input} (hs : P s) (h : s.tickWith inputs = .next t) : P t := by
  rcases s.tickWith_cases h with ⟨e, -, rfl⟩ | ⟨-, -, rfl⟩ | ⟨-, -, hbatch⟩
  · exact hanswer s _ hs
  · exact hs
  · exact State.runBatch_induction hstep hframe hs hbatch

/-! ### The invariant, command by command -/

section
variable {s t : State}

/-- A transition that keeps the configuration and the history needs a well-formed snapshot alone. -/
theorem State.inv_of_same_history (hinv : s.inv = true) (hcfg : t.cfg = s.cfg)
    (hsnap : t.toSnapshot.wf s.cfg = true) (hhist : t.hist = s.hist) : t.inv = true := by
  obtain ⟨hwf, -, hold, hlen⟩ := State.inv_iff.mp hinv
  rw [State.inv_iff, hcfg, hhist]
  exact ⟨hwf, hsnap, hold, hlen⟩

/-- So does one that pushes the snapshot of the state before (R32). -/
theorem State.inv_of_push (hinv : s.inv = true) (hcfg : t.cfg = s.cfg) (hsnap : t.toSnapshot.wf s.cfg = true)
    (hhist : t.hist = pushHistory s.cfg.histCap s.hist s.snapshot) : t.inv = true := by
  obtain ⟨hwf, hsnap', hold, hlen⟩ := State.inv_iff.mp hinv
  rw [State.inv_iff, hcfg, hhist]
  refine ⟨hwf, hsnap, fun p hp => ?_, ?_⟩
  · rcases mem_pushHistory _ _ _ hp with rfl | hp
    · exact hsnap'
    · exact hold p hp
  · rw [length_pushHistory _ _ _ hlen]
    split <;> omega

/-- A step keeps the snapshot elements well formed. -/
theorem State.stepWith_wf {input : Input} (h : s.stepWith input = .next t) (hcap : s.cfg.stackCap ≤ 16)
    (hw : s.toSnapshot.wf s.cfg = true) : t.toSnapshot.wf s.cfg = true := by
  rcases s.stepWith_cases h with ⟨e, -, rfl⟩ | ⟨x, -, -, rfl⟩ | ⟨-, -, -, rfl⟩ | ⟨i, u, -, -, -, hu, rfl⟩
  · exact hw
  · rcases (s.sample input).pollKey_cases x with ⟨-, hp⟩ | ⟨-, hp⟩ <;> rw [hp] <;>
      exact Snapshot.wf_congr hw rfl rfl rfl
  · exact Snapshot.wf_congr hw rfl rfl rfl
  · rw [(u.finishStep_keeps s.snapshot).1]
    exact exec_wf (s := (s.sample input).advance) hu hcap (Snapshot.wf_congr hw rfl rfl rfl)

/-- A step leaves the history or pushes the pre-step snapshot (R97). -/
theorem State.stepWith_hist {input : Input} (h : s.stepWith input = .next t) :
    t.hist = s.hist ∨ t.hist = pushHistory s.cfg.histCap s.hist s.snapshot := by
  rcases hh : s.halt with _ | e
  · rcases s.stepWith_push_or_fatal h hh with ⟨-, hhist⟩ | ⟨-, -, hhist, -⟩
    · exact .inr hhist
    · exact .inl hhist
  · obtain rfl := Host.Outcome.next.inj ((s.stepWith_halted input hh).symm.trans h)
    exact .inl rfl

theorem State.stepWith_inv {input : Input} (hinv : s.inv = true) (h : s.stepWith input = .next t) :
    t.inv = true := by
  obtain ⟨hwf, hsnap, -, -⟩ := State.inv_iff.mp hinv
  obtain ⟨hcfg, -, -⟩ := s.stepWith_keeps h
  obtain ⟨-, hcap, -⟩ := s.cfg.wf_iff.mp hwf
  have hsnap' := State.stepWith_wf h hcap hsnap
  rcases State.stepWith_hist h with hhist | hhist
  · exact State.inv_of_same_history hinv hcfg hsnap' hhist
  · exact State.inv_of_push hinv hcfg hsnap' hhist

theorem State.endFrame_inv (s : State) (hinv : s.inv = true) : s.endFrame.inv = true := by
  obtain ⟨-, hhist, hcfg, -, -, hmem, hstack, hsp⟩ := s.endFrame_keeps
  obtain ⟨-, hsnap, -, -⟩ := State.inv_iff.mp hinv
  exact State.inv_of_same_history hinv hcfg (Snapshot.wf_congr hsnap hmem hstack hsp) hhist

theorem State.tickWith_inv {inputs : List Input} (hinv : s.inv = true) (h : s.tickWith inputs = .next t) :
    t.inv = true :=
  State.tickWith_induction (P := fun s => s.inv = true) State.stepWith_inv State.endFrame_inv
    (fun _ _ h => h) hinv h

/-- R35: the snapshot elements after reset are well formed. -/
theorem Snapshot.wf_reset (c : Config) : (Snapshot.reset c).wf c = true :=
  (Snapshot.wf_iff c _).mpr ⟨Memory.wf_nil c, List.length_replicate, Nat.zero_le _⟩

theorem State.resetAll_inv (hinv : s.inv = true) : s.resetAll.inv = true := by
  obtain ⟨hwf, -, -, -⟩ := State.inv_iff.mp hinv
  exact State.inv_iff.mpr ⟨hwf, Snapshot.wf_reset s.cfg, by simp [State.resetAll], Nat.zero_le _⟩

theorem State.loadRom_inv (bytes : List Byte) (hinv : s.inv = true) : (s.loadRom bytes).inv = true := by
  rcases s.loadRom_cases bytes with ⟨-, h⟩ | ⟨-, h⟩
  · rw [h]
    exact hinv
  · obtain ⟨mem, hcopy, hmem⟩ := s.resetAll.copyRom_eq 0x200 bytes
    rw [h, hcopy]
    have hreset := State.resetAll_inv hinv
    obtain ⟨-, hsnap, -, -⟩ := State.inv_iff.mp hreset
    obtain ⟨hwf, hstack, hsp⟩ := (Snapshot.wf_iff _ _).mp hsnap
    exact State.inv_of_same_history hreset rfl ((Snapshot.wf_iff _ _).mpr ⟨hmem hwf, hstack, hsp⟩) rfl

theorem State.rewindOnce_inv (hinv : s.inv = true) : s.rewindOnce.inv = true := by
  rcases s.rewindOnce_cases with ⟨-, h⟩ | ⟨p, hp, h⟩
  · rw [h]
    exact hinv
  · obtain ⟨hwf, -, hold, hlen⟩ := State.inv_iff.mp hinv
    rw [h]
    refine State.inv_iff.mpr ⟨hwf, hold p (List.mem_of_getLast? hp), fun q hq => hold q (List.mem_of_mem_dropLast hq),
      ?_⟩
    exact (List.length_dropLast.trans_le (Nat.sub_le _ _)).trans hlen

theorem State.restoreWith_inv {p : Snapshot} (hinv : s.inv = true) (h : s.restoreWith p = .next t) :
    t.inv = true := by
  obtain ⟨hp, rfl⟩ := s.restoreWith_next h
  exact State.inv_of_same_history hinv rfl hp rfl

/-! ### The configuration and HALT -/

theorem State.stepWith_cfg {input : Input} (h : s.stepWith input = .next t) : t.cfg = s.cfg := by
  obtain ⟨hcfg, -, -⟩ := s.stepWith_keeps h
  exact hcfg

theorem State.tickWith_cfg {inputs : List Input} (h : s.tickWith inputs = .next t) : t.cfg = s.cfg :=
  State.tickWith_induction (P := fun u => u.cfg = s.cfg) (fun hu hstep => (State.stepWith_cfg hstep).trans hu)
    (fun u hu => by simpa using hu) (fun _ _ hu => hu) rfl h

theorem State.loadRom_cfg (s : State) (bytes : List Byte) : (s.loadRom bytes).cfg = s.cfg := by
  rcases s.loadRom_cases bytes with ⟨-, h⟩ | ⟨-, h⟩
  · rw [h]
    rfl
  · obtain ⟨mem, hcopy, -⟩ := s.resetAll.copyRom_eq 0x200 bytes
    rw [h, hcopy]
    rfl

theorem State.rewindOnce_keeps (s : State) : s.rewindOnce.cfg = s.cfg ∧ s.rewindOnce.halt = s.halt ∧
    s.rewindOnce.host = s.host := by
  rcases s.rewindOnce_cases with ⟨-, h⟩ | ⟨p, -, h⟩ <;> rw [h] <;> exact ⟨rfl, rfl, rfl⟩

/-- A tick while Halted only answers (R214). -/
theorem State.tickWith_halted (s : State) (inputs : List Input) {e : Halt} (hh : s.halt = some e) :
    s.tickWith inputs = .next (s.answer (.halted e.code)) := by
  simp only [State.tickWith, hh]

/-- A rejected load leaves HALT set, so one that leaves it clear met a ROM that fits. -/
theorem State.length_le_of_loadRom_halt {bytes : List Byte} (h : (s.loadRom bytes).halt = none) :
    bytes.length ≤ maxRom := by
  rcases s.loadRom_cases bytes with ⟨-, hload⟩ | ⟨hlen, -⟩
  · rw [hload] at h
    cases h
  · exact hlen

end

end Sys2Proof.Machine

namespace Sys2Proof.Proofs

open Sys2Proof.Machine

/-- Settles O45: the reset state is one literal, evaluated. -/
theorem invHoldsAtReset : Obligations.InvHoldsAtReset := by
  unfold Obligations.InvHoldsAtReset
  decide

/-- Settles O46, a command at a time: steps and ticks by what a step pushes, the others by what they put in the
snapshot. -/
theorem everyStepKeepsInv : Obligations.EveryStepKeepsInv := by
  unfold Obligations.EveryStepKeepsInv
  intro s t hinv hstep
  obtain ⟨r, ⟨draws, host, hr⟩, hcmd⟩ := step_cases hstep
  replace hr : r.inv = true := by rw [hr]; exact hinv
  rcases hcmd with ⟨-, rfl⟩ | ⟨bytes, -, rfl⟩ | ⟨input, -, h⟩ | ⟨inputs, -, h⟩ | ⟨-, rfl⟩ | ⟨-, rfl⟩ | ⟨p, -, h⟩
  · exact State.resetAll_inv hr
  · exact State.loadRom_inv bytes hr
  · exact State.stepWith_inv hr h
  · exact State.tickWith_inv hr h
  · exact State.rewindOnce_inv hr
  · exact hr
  · exact State.restoreWith_inv hr h

/-- Settles O47, a command at a time. -/
theorem noStepChangesConfig : Obligations.NoStepChangesConfig := by
  unfold Obligations.NoStepChangesConfig
  intro s t hstep
  obtain ⟨r, ⟨draws, host, hr⟩, hcmd⟩ := step_cases hstep
  suffices hcfg : t.cfg = r.cfg by rw [hcfg, hr]
  rcases hcmd with ⟨-, rfl⟩ | ⟨bytes, -, rfl⟩ | ⟨input, -, h⟩ | ⟨inputs, -, h⟩ | ⟨-, rfl⟩ | ⟨-, rfl⟩ | ⟨p, -, h⟩
  · rfl
  · exact r.loadRom_cfg bytes
  · exact State.stepWith_cfg h
  · exact State.tickWith_cfg h
  · obtain ⟨hcfg, -, -⟩ := r.rewindOnce_keeps
    exact hcfg
  · rfl
  · obtain ⟨-, rfl⟩ := r.restoreWith_next h
    rfl

/-- Settles O48: with HALT set a step or tick only answers, and a rewind, a snapshot command or a rejected load leaves
HALT set. -/
theorem onlyResetOrLoadClearsHalt : Obligations.OnlyResetOrLoadClearsHalt := by
  unfold Obligations.OnlyResetOrLoadClearsHalt
  intro s t e hhalt hstep hclear
  obtain ⟨r, ⟨draws, host, hr⟩, hcmd⟩ := step_cases hstep
  have hset : r.halt = some e := by rw [hr]; exact hhalt
  have hkept : t.halt ≠ r.halt := by simp [hclear, hset]
  rcases hcmd with ⟨hc, -⟩ | ⟨bytes, hc, rfl⟩ | ⟨input, -, h⟩ | ⟨inputs, -, h⟩ | ⟨-, rfl⟩ | ⟨-, rfl⟩ | ⟨p, -, h⟩
  · exact .inl hc
  · exact .inr ⟨bytes, hc, State.length_le_of_loadRom_halt hclear⟩
  · obtain rfl := Host.Outcome.next.inj ((r.stepWith_halted input hset).symm.trans h)
    exact absurd rfl hkept
  · obtain rfl := Host.Outcome.next.inj ((r.tickWith_halted inputs hset).symm.trans h)
    exact absurd rfl hkept
  · obtain ⟨-, hhalt', -⟩ := r.rewindOnce_keeps
    exact absurd hhalt' hkept
  · exact absurd rfl hkept
  · obtain ⟨-, rfl⟩ := r.restoreWith_next h
    exact absurd rfl hkept

/-- Settles O49: every command completes (`State.stepWith_completes`, `State.tickWith_completes`) but a restore that
fails its check. -/
theorem everyCommandCompletesOrIsRefused : Obligations.EveryCommandCompletesOrIsRefused := by
  unfold Obligations.EveryCommandCompletesOrIsRefused
  intro s
  have hstep : step s = s.takeCommand.runCommand s.nextCommand := rfl
  obtain ⟨-, -, -, hcfg⟩ := s.takeCommand_beginCommand_keeps
  rw [hstep]
  cases s.nextCommand with
  | reset => exact .inl ⟨_, rfl⟩
  | load bytes => exact .inl ⟨_, rfl⟩
  | step input => exact .inl (State.stepWith_completes _ input)
  | tick inputs => exact .inl (State.tickWith_completes _ inputs)
  | rewind => exact .inl ⟨_, rfl⟩
  | getSnapshot => exact .inl ⟨_, rfl⟩
  | restoreSnapshot p =>
    by_cases hwf : p.wf s.takeCommand.beginCommand.cfg = true
    · exact .inl ⟨_, if_pos hwf⟩
    · exact .inr ⟨if_neg hwf, p, rfl, by rwa [hcfg, Bool.not_eq_true] at hwf⟩

end Sys2Proof.Proofs
end

section
/-! SUPPORT. The command `step` in each mode: O36, O37 and O39 to O42 (spec/40_dispatch_cycle.md R90 to R99,
spec/60_exceptions.md R201 to R205). -/

namespace Sys2Proof.Machine

/-! ### Modes -/

theorem State.mode_eq_running {s : State} : s.mode = .running ↔ s.halt = none ∧ s.kw = none := by
  unfold State.mode
  rcases s.halt with _ | e <;> rcases s.kw with _ | x <;> simp

theorem State.mode_eq_awaitingKey {s : State} {x : Reg} :
    s.mode = .awaitingKey x ↔ s.halt = none ∧ s.kw = some x := by
  unfold State.mode
  rcases s.halt with _ | e <;> rcases s.kw with _ | y <;> simp

/-! ### The next command, on a state that differs in the host's ports alone -/

theorem step_eq_runCommand {s : State} {c : Command} (h : s.nextCommand = c) :
    ∃ draws host, step s = State.runCommand { s with draws := draws, host := host } c := by
  obtain ⟨draws, host, htake⟩ := s.takeCommand_eq
  refine ⟨draws, host, ?_⟩
  rw [← htake, ← h]
  rfl

/-! ### `step`, case by case (R90) -/

section
variable {s : State} (input : Input)

theorem State.stepWith_of_decodes {i : Instr} {u : State} (hhalt : s.halt = none) (hkw : s.kw = none)
    (hdec : decodeWord s.fetch = some i) (hexec : exec i (s.sample input).advance = .next u) :
    s.stepWith input = .next (u.finishStep s.snapshot) := by
  have hdec' : decodeWord (s.sample input).fetch = some i := hdec
  simp only [State.stepWith, hhalt, hkw, State.runInstr, hdec', hexec]
  rfl

theorem State.stepWith_of_undecodable (hhalt : s.halt = none) (hkw : s.kw = none)
    (hdec : decodeWord s.fetch = none) : s.stepWith input =
      .next (((s.sample input).advance.raise (.decodeError s.fetch s.pc)).answer (.fatal .decodeError)) := by
  have hdec' : decodeWord (s.sample input).fetch = none := hdec
  simp only [State.stepWith, hhalt, hkw, State.runInstr, hdec']
  rfl

theorem State.stepWith_of_awaiting {x : Reg} (hhalt : s.halt = none) (hkw : s.kw = some x) :
    s.stepWith input = .next ((s.sample input).pollKey x) := by
  simp only [State.stepWith, hhalt, hkw]

/-- The ports are written before anything reads them (R98). -/
theorem State.stepWith_sample (old : Input) (hhalt : s.halt = none) :
    (s.sample old).stepWith input = s.stepWith input := by
  have hhalt' : (s.sample old).halt = none := hhalt
  simp only [State.stepWith, hhalt, hhalt', State.sample_kw]
  rfl

end

/-! ### Frames of the ends of a step -/

section
variable (s : State)

theorem State.pollKey_of_none (x : Reg) (h : s.keys = 0) :
    s.pollKey x = (s.pushHist s.snapshot).answer .noOpAwaitingKey := if_pos h

theorem State.pollKey_of_some (x : Reg) (h : s.keys ≠ 0) : s.pollKey x =
    ((((s.deliverKey x).setKw none).pushHist s.snapshot).emit .stateChanged).answer .retired := if_neg h

theorem State.answer_keeps (r : Result) : KeepsAllBut [.result] s (s.answer r) := by
  intro p hp
  cases p
  case result => simp at hp
  all_goals simp [Part.Same]

theorem State.pushHist_keeps (p : Snapshot) : KeepsAllBut [.history] s (s.pushHist p) := by
  intro p hp
  cases p
  case history => simp at hp
  all_goals simp [Part.Same, State.getV, State.readByte, State.stackAt, State.cell]

theorem State.sample_keeps (input : Input) : KeepsAllBut [.inputs] s (s.sample input) := by
  intro p hp
  cases p
  case inputs => simp at hp
  all_goals simp [Part.Same]

/-- Beginning a command touches the host's ports and outputs alone. -/
theorem State.beginCommand_keeps (draws : Nat) (host : List Command) :
    KeepsAllBut [.inputs, .requests, .events, .result] s
      (State.beginCommand { s with draws := draws, host := host }) := by
  intro p hp
  cases p
  case inputs | requests | events | result => simp at hp
  all_goals simp [Part.Same, State.getV, State.readByte, State.stackAt, State.cell]

/-- A poll has no part in PC, memory, the stack, the display and the timers (R92). -/
theorem State.pollKey_keeps (x : Reg) :
    KeepsAllBut [.registers, .keyWait, .history, .events, .result] s (s.pollKey x) := by
  by_cases h : s.keys = 0
  · rw [s.pollKey_of_none x h]
    exact ((s.pushHist_keeps _).trans (State.answer_keeps _ _)).mono (by simp)
  · rw [s.pollKey_of_some x h]
    exact (((((s.deliverKey_keeps x).trans (State.setKw_keeps _ _)).trans (State.pushHist_keeps _ _)).trans
      (State.emit_keeps _ _)).trans (State.answer_keeps _ _)).mono (by simp)

/-- The end of a step changes the history and the outputs alone. -/
theorem State.finishStep_keepsAllBut (pre : Snapshot) :
    KeepsAllBut [.history, .events, .result] s (s.finishStep pre) := by
  rcases hhalt : s.halt with _ | e
  · rw [s.finishStep_running pre hhalt]
    exact ((s.pushHist_keeps pre).trans (State.emit_keeps _ _)).trans (State.answer_keeps _ _)
  · rw [s.finishStep_halted pre hhalt]
    exact (s.answer_keeps _).mono (by simp)

end

/-! ### Errors an instruction raises -/

/-- An instruction that sets HALT is a call or a return, and it records its own word and address (R202, R203). -/
theorem exec_raises {i : Instr} {s t : State} (h : exec i s = .next t) (hne : t.halt ≠ s.halt) :
    ∃ e, t = s.raise e ∧
      (e = .stackOverflow (encodeWord i) s.instrAddr ∨ e = .stackUnderflow (encodeWord i) s.instrAddr) := by
  have hwrites : Part.halt ∈ Instr.writes i := by
    by_contra hnot
    exact hne (exec_keeps h .halt hnot)
  cases i
  case ret =>
    by_cases hsp : s.sp = 0
    · exact ⟨_, Host.Outcome.next.inj (h.symm.trans (exec_ret_of_zero hsp)), .inr rfl⟩
    · obtain rfl := Host.Outcome.next.inj ((exec_ret_of_ne hsp).symm.trans h)
      exact absurd rfl hne
  case call nnn =>
    by_cases hsp : s.sp.toNat = s.cfg.stackCap
    · exact ⟨_, Host.Outcome.next.inj (h.symm.trans (exec_call_of_full nnn hsp)), .inl rfl⟩
    · obtain rfl := Host.Outcome.next.inj ((exec_call_of_free nnn hsp).symm.trans h)
      exact absurd rfl hne
  all_goals simp [Instr.writes] at hwrites

/-- The address of the instruction in progress is where it was fetched from. -/
theorem State.instrAddr_advance (s : State) : s.advance.instrAddr = s.pc := by
  rw [State.instrAddr, State.advance_pc, BitVec.add_sub_cancel]

/-- R205: a step that sets HALT has advanced PC and raised one error, with the fetched word and its address. -/
theorem State.stepWith_fatal {s t : State} {input : Input} {e : Halt} (hhalt : s.halt = none)
    (h : s.stepWith input = .next t) (hset : t.halt = some e) :
    t = ((s.sample input).advance.raise e).answer (.fatal e.code) ∧
      (e = .decodeError s.fetch s.pc ∨ e = .stackOverflow s.fetch s.pc ∨ e = .stackUnderflow s.fetch s.pc) := by
  rcases s.stepWith_cases h with ⟨d, hd, -⟩ | ⟨x, -, -, rfl⟩ | ⟨-, -, -, rfl⟩ | ⟨i, u, -, -, hdec, hexec, rfl⟩
  · rw [hhalt] at hd
    cases hd
  · rcases (s.sample input).pollKey_cases x with ⟨-, hp⟩ | ⟨-, hp⟩ <;> rw [hp] at hset <;>
      exact absurd (hset.symm.trans hhalt) (by simp)
  · obtain rfl : Halt.decodeError s.fetch s.pc = e := Option.some.inj hset
    exact ⟨rfl, .inl rfl⟩
  · obtain ⟨-, hkeep, -⟩ := u.finishStep_keeps s.snapshot
    have hset' : u.halt = some e := hkeep.symm.trans hset
    have hne : u.halt ≠ (s.sample input).advance.halt := by simp [hset', hhalt]
    obtain ⟨d, rfl, hd⟩ := exec_raises hexec hne
    obtain rfl : d = e := Option.some.inj hset'
    rw [Proofs.encodeOfDecodeIsIdentity _ i hdec, State.instrAddr_advance] at hd
    exact ⟨State.finishStep_halted _ _ rfl, .inr hd⟩

end Sys2Proof.Machine

namespace Sys2Proof.Proofs

open Sys2Proof.Machine

/-- Settles O36: the step is `exec` on the advanced state and then the end of the step, which HALT decides. -/
theorem stepRunsDecodedInstruction : Obligations.StepRunsDecodedInstruction := by
  unfold Obligations.StepRunsDecodedInstruction
  intro s t input i hmode hcmd hdec hexec
  obtain ⟨hhalt, hkw⟩ := State.mode_eq_running.mp hmode
  obtain ⟨draws, host, htake⟩ := s.takeCommand_eq
  rw [htake] at hexec
  have hstep : step s = .next (t.finishStep s.snapshot) := by
    rw [step_of_step hcmd, htake]
    exact State.stepWith_of_decodes (s := State.beginCommand _) input hhalt hkw hdec hexec
  obtain ⟨hhist, hcfg, -⟩ := exec_outside hexec
  obtain ⟨hsnap, hkeep, -⟩ := t.finishStep_keeps s.snapshot
  refine ⟨_, hstep, hsnap, hkeep, t.finishStep_keepsAllBut _, fun hnone => ?_, fun e hsome => ?_⟩
  · rw [t.finishStep_running _ hnone]
    refine ⟨?_, rfl, rfl⟩
    show pushHistory t.cfg.histCap t.hist s.snapshot = _
    rw [hhist, hcfg]
    rfl
  · rw [t.finishStep_halted _ hsome]
    exact ⟨hhist, rfl, rfl⟩

/-- Settles O37: the step is one raise on the advanced state. -/
theorem undecodableWordHalts : Obligations.UndecodableWordHalts := by
  unfold Obligations.UndecodableWordHalts
  intro s input hmode hcmd hdec
  obtain ⟨hhalt, hkw⟩ := State.mode_eq_running.mp hmode
  obtain ⟨draws, host, hstep⟩ := step_eq_runCommand hcmd
  exact ⟨_, hstep.trans (State.stepWith_of_undecodable (s := State.beginCommand _) input hhalt hkw hdec),
    rfl, rfl, rfl, rfl, rfl, rfl⟩

/-- Settles O39: the step is one poll, in which the fetch and PC have no part. -/
theorem awaitingKeyPollsOnly : Obligations.AwaitingKeyPollsOnly := by
  unfold Obligations.AwaitingKeyPollsOnly
  intro s input x hmode hcmd
  obtain ⟨hhalt, hkw⟩ := State.mode_eq_awaitingKey.mp hmode
  obtain ⟨draws, host, hstep⟩ := step_eq_runCommand hcmd
  have hpoll := hstep.trans (State.stepWith_of_awaiting (s := State.beginCommand _) input hhalt hkw)
  refine ⟨fun hnone => ?_, fun hsome => ?_⟩
  · rw [State.pollKey_of_none _ x (show (State.sample _ input).keys = 0 from hnone)] at hpoll
    exact ⟨_, hpoll, rfl, hhalt, rfl, rfl, rfl⟩
  · obtain ⟨hpressed, hlower⟩ := lowestKey_spec input.keys hsome
    have hframe := (s.beginCommand_keeps draws host).trans
      ((State.sample_keeps _ input).trans (State.pollKey_keeps _ x))
    rw [State.pollKey_of_some _ x (show (State.sample _ input).keys ≠ 0 from hsome)] at hpoll hframe
    exact ⟨_, lowestKey input.keys, hpoll, hpressed, hlower, State.toNat_getV_deliverKey _ x,
      State.deliverKey_keepsRegs _ x, rfl, rfl, rfl, rfl, hframe.mono (by simp)⟩

/-- Settles O40: the step is one raise on the advanced state, whatever raised it (`State.stepWith_fatal`). -/
theorem fatalStepIsPrecise : Obligations.FatalStepIsPrecise := by
  unfold Obligations.FatalStepIsPrecise
  intro s u input e hhalt hcmd hstep hset
  obtain ⟨draws, host, hrun⟩ := step_eq_runCommand hcmd
  obtain ⟨rfl, he⟩ := State.stepWith_fatal (s := State.beginCommand { s with draws := draws, host := host })
    (input := input) hhalt (hrun.symm.trans hstep) hset
  exact ⟨rfl, rfl, rfl, rfl, he⟩

/-- Settles O41: the jump undoes the advance of PC, and retiring changes no snapshot element. -/
theorem jumpToSelfChangesNoSnapshotState : Obligations.JumpToSelfChangesNoSnapshotState := by
  unfold Obligations.JumpToSelfChangesNoSnapshotState
  intro s input hmode hcmd hdec
  obtain ⟨hhalt, hkw⟩ := State.mode_eq_running.mp hmode
  obtain ⟨draws, host, hrun⟩ := step_eq_runCommand hcmd
  have hstep := hrun.trans
    (State.stepWith_of_decodes (s := State.beginCommand _) input hhalt hkw hdec (exec_jp s.pc))
  obtain ⟨hsnap, hkeep, -⟩ := State.finishStep_keeps (State.setPc _ s.pc) s.snapshot
  exact ⟨_, hstep, hsnap, hkeep.trans hhalt⟩

/-- Settles O42: a step of a block that is not halted writes both ports before it reads them. -/
theorem oldInputsDoNotMatter : Obligations.OldInputsDoNotMatter := by
  unfold Obligations.OldInputsDoNotMatter
  intro s input old hhalt hcmd
  have htake : (s.sample old).takeCommand.beginCommand = s.takeCommand.beginCommand.sample old := by
    unfold State.takeCommand
    rw [State.sample_host]
    rcases s.host with _ | ⟨c, rest⟩ <;> rfl
  obtain ⟨-, hkeep, -, -⟩ := s.takeCommand_beginCommand_keeps
  rw [step_of_step (show (s.sample old).nextCommand = .step input from hcmd), step_of_step hcmd, htake]
  exact State.stepWith_sample input old (hkeep.trans hhalt)

end Sys2Proof.Proofs
end

section
/-! SUPPORT. Reset, load, rewind and the snapshot commands: O53 to O56 and O58 to O60 (spec/10_state.md R35,
spec/60_exceptions.md R219 to R222, spec/70_reset_and_hazards.md R250 to R252). -/

namespace Sys2Proof.Machine

variable {s : State}

/-! ### Rewind (R219) -/

theorem State.rewindOnce_of_nil (h : s.hist = []) : s.rewindOnce = (s.emit .rewindEmpty).answer .empty := by
  simp only [State.rewindOnce, h, List.getLast?_nil]

theorem State.rewindOnce_of_concat {older : List Snapshot} {p : Snapshot} (h : s.hist = older ++ [p]) :
    s.rewindOnce = ((State.restore { s with hist := older } p).emit .stateChanged).answer .ok := by
  simp only [State.rewindOnce, h, List.getLast?_concat, State.dropNewest, List.dropLast_concat]

/-! ### Load (R251, R252) -/

theorem State.loadRom_of_gt {bytes : List Byte} (h : maxRom < bytes.length) :
    s.loadRom bytes = (s.raise (.invalidProgramLoad bytes.length)).answer .invalidProgramLoad := if_pos h

/-- Outside a ROM that fits memory reads as after reset. -/
theorem State.readByte_loadRom_out {bytes : List Byte} (hlen : bytes.length ≤ maxRom) {a : Addr}
    (ha : a.toNat < 0x200 ∨ 0x200 + bytes.length ≤ a.toNat) :
    (s.loadRom bytes).readByte a = resetByte s.cfg a.toNat := by
  have hfit : (0x200 : Addr).toNat + bytes.length ≤ 4096 := Nat.add_le_add_left hlen 0x200
  rw [s.loadRom_of_le hlen]
  exact s.resetAll.copyRom_out 0x200 a bytes hfit ha

/-- The answer of a load tells whether the ROM was too long. -/
theorem State.loadRom_result (bytes : List Byte) :
    (s.loadRom bytes).result = some .invalidProgramLoad ↔ maxRom < bytes.length := by
  by_cases h : maxRom < bytes.length
  · simp [State.loadRom_of_gt h, h]
  · simp [s.loadRom_of_le (Nat.le_of_not_lt h), h]

/-! ### The reset state (R35) -/

theorem State.reset_readByte (a : Addr) : State.reset.readByte a = resetByte defaultConfig a.toNat := rfl

theorem State.reset_stackAt (k : BitVec 5) : State.reset.stackAt k = 0 := by
  show (List.replicate 16 (0 : Addr)).getD k.toNat 0 = 0
  rw [List.getD_eq_getElem?_getD, List.getElem?_replicate]
  split <;> rfl

theorem resetByte_of_lt (c : Config) {a : Nat} (h : a < 80) : resetByte c a = c.font[a] := dif_pos h

theorem resetByte_of_le (c : Config) {a : Nat} (h : 80 ≤ a) : resetByte c a = 0 := dif_neg (Nat.not_lt.mpr h)

end Sys2Proof.Machine

namespace Sys2Proof.Proofs

open Sys2Proof.Machine

/-- Settles O53: with an empty history the rewind only reports it; else it restores the last entry. -/
theorem rewindRestoresNewest : Obligations.RewindRestoresNewest := by
  unfold Obligations.RewindRestoresNewest
  intro s hcmd
  obtain ⟨draws, host, hrun⟩ := step_eq_runCommand hcmd
  refine ⟨fun hnil => ?_, fun older p hconcat => ?_⟩
  · exact ⟨_, hrun.trans (congrArg Host.Outcome.next (State.rewindOnce_of_nil (s := State.beginCommand _) hnil)),
      rfl, hnil, rfl, rfl, rfl⟩
  · exact ⟨_, hrun.trans (congrArg Host.Outcome.next (State.rewindOnce_of_concat (s := State.beginCommand _) hconcat)),
      rfl, rfl, rfl, rfl, rfl⟩

/-- Settles O54: one command answers the snapshot, the other puts one in its place. -/
theorem snapshotCommandsCopyState : Obligations.SnapshotCommandsCopyState := by
  unfold Obligations.SnapshotCommandsCopyState
  refine ⟨fun s hcmd => ?_, fun s p hcmd hwf => ?_⟩
  · obtain ⟨draws, host, hrun⟩ := step_eq_runCommand hcmd
    exact ⟨_, hrun, rfl, rfl, rfl, rfl, rfl⟩
  · obtain ⟨draws, host, hrun⟩ := step_eq_runCommand hcmd
    exact ⟨_, hrun.trans (if_pos hwf), rfl, rfl, rfl, rfl⟩

/-- Settles O55, an element at a time. -/
theorem resetStateIsTheTable : Obligations.ResetStateIsTheTable := by
  unfold Obligations.ResetStateIsTheTable
  refine ⟨fun a ha => ?_, fun a ha => ?_, fun r => ?_, rfl, rfl, State.reset_stackAt, rfl,
    List.length_replicate, Framebuffer.cell_blank, rfl, rfl, rfl, rfl, rfl⟩
  · rw [State.reset_readByte, resetByte_of_lt _ ha, Vector.getElem?_eq_getElem ha]
    rfl
  · rw [State.reset_readByte, resetByte_of_le _ ha]
  · exact Vector.getElem_replicate _

/-- Settles O56: the command is the reset of all elements, with the outputs cleared. -/
theorem resetCommandResetsEverything : Obligations.ResetCommandResetsEverything := by
  unfold Obligations.ResetCommandResetsEverything
  intro s hcmd
  obtain ⟨draws, host, hrun⟩ := step_eq_runCommand hcmd
  exact ⟨_, hrun, rfl, rfl, rfl, rfl, rfl⟩

/-- Settles O58: the ROM is copied over the reset state, and the copy changes memory alone. -/
theorem loadResetsTheRest : Obligations.LoadResetsTheRest := by
  unfold Obligations.LoadResetsTheRest
  intro s bytes hcmd hlen
  obtain ⟨draws, host, hrun⟩ := step_eq_runCommand hcmd
  have hout := fun a => State.readByte_loadRom_out (s := State.beginCommand { s with draws := draws, host := host })
    hlen (a := a)
  obtain ⟨mem, hload⟩ := State.loadRom_eq (State.beginCommand { s with draws := draws, host := host }) hlen
  rw [hload] at hout
  exact ⟨_, hrun.trans (congrArg Host.Outcome.next hload), hout, ⟨mem, rfl⟩, rfl, rfl, rfl, rfl, rfl⟩

/-- Settles O59: the size check decides, and a rejected load is one raise. -/
theorem loadRejectsLongRom : Obligations.LoadRejectsLongRom := by
  unfold Obligations.LoadRejectsLongRom
  refine ⟨fun s bytes hcmd hlen => ?_, fun s u bytes hcmd hstep => ?_⟩
  · obtain ⟨draws, host, hrun⟩ := step_eq_runCommand hcmd
    exact ⟨_, hrun.trans (congrArg Host.Outcome.next (State.loadRom_of_gt (s := State.beginCommand _) hlen)),
      rfl, rfl, rfl, rfl, rfl, rfl⟩
  · obtain rfl := Host.Outcome.next.inj ((step_of_load hcmd).symm.trans hstep)
    exact State.loadRom_result bytes

/-- Settles O60: memory reads 0x0000 at 0x200, which no row accepts, so the step is that of O37. -/
theorem firstStepAfterResetHalts : Obligations.FirstStepAfterResetHalts := by
  unfold Obligations.FirstStepAfterResetHalts
  have hfetch : State.reset.fetch = 0x0000 := by decide
  have hdec : decodeWord State.reset.fetch = none := by decide
  obtain ⟨u, hstep, hhalt, hsnap, hhist, -, -, hresult⟩ :=
    undecodableWordHalts State.reset State.reset.freeInput rfl rfl hdec
  rw [hfetch] at hhalt
  refine ⟨u, hstep, hhalt, ?_, ?_, hhist, hresult⟩
  · simp only [State.haltCode, hhalt]
    rfl
  · rw [hsnap]
    rfl

end Sys2Proof.Proofs
end

section
/-! SUPPORT. The frame tick: O50 to O52 (spec/60_exceptions.md R210 to R217). -/

namespace Sys2Proof.Machine

/-! ### Commands that stand in the queue -/

/-- A command other than `step` is the next one only when it is first in the queue. -/
theorem State.host_of_nextCommand {s : State} {c : Command} (h : s.nextCommand = c) (hc : ∀ input, c ≠ .step input) :
    ∃ rest, s.host = c :: rest := by
  rcases hhost : s.host with _ | ⟨d, rest⟩
  · simp only [State.nextCommand, hhost] at h
    exact absurd h.symm (hc _)
  · simp only [State.nextCommand, hhost] at h
    exact ⟨rest, by rw [h]⟩

/-- The first command of the queue runs, on a state with the rest of the queue. -/
theorem step_of_host {s : State} {c : Command} {rest : List Command} (h : s.host = c :: rest) :
    step s = State.runCommand { s with host := rest } c := by
  have hnext : s.nextCommand = c := by simp only [State.nextCommand, h]
  have htake : s.takeCommand = { s with host := rest } := by simp only [State.takeCommand, h]
  rw [← htake, ← hnext]
  rfl

/-- When the next command is `tick`, the step is that tick on a state whose outputs are cleared. -/
theorem step_of_tick {s : State} {inputs : List Input} (h : s.nextCommand = .tick inputs) :
    step s = s.takeCommand.beginCommand.tickWith inputs := by
  show s.takeCommand.runCommand s.nextCommand = _
  rw [h]
  rfl

/-- Beginning a command of the queue touches the requests and the outputs alone. -/
theorem State.beginCommand_keeps_of_queue (s : State) (rest : List Command) :
    KeepsAllBut [.requests, .events, .result] s (State.beginCommand { s with host := rest }) := by
  intro p hp
  cases p
  case requests | events | result => simp at hp
  all_goals simp [Part.Same, State.getV, State.readByte, State.stackAt, State.cell]

/-! ### The steps of a batch (R210) -/

section
variable {s t u : State} {input : Input} {inputs before after : List Input}

theorem State.stepAll_cons (h : s.stepAll (input :: inputs) = .next t) :
    ∃ u, s.stepWith input = .next u ∧ u.stepAll inputs = .next t := by
  obtain ⟨u, hu⟩ := s.stepWith_completes input
  refine ⟨u, hu, ?_⟩
  rw [State.stepAll] at h
  simpa only [hu] using h

/-- R91: after a fatal step the rest of a batch leaves HALT set. -/
theorem State.stepAll_halted {e : Halt} (hhalt : s.halt = some e) (h : s.stepAll inputs = .next t) :
    t.halt = some e := by
  induction inputs generalizing s with
  | nil =>
    cases h
    exact hhalt
  | cons input inputs ih =>
    obtain ⟨u, hu, hrest⟩ := State.stepAll_cons h
    obtain rfl := Host.Outcome.next.inj ((s.stepWith_halted input hhalt).symm.trans hu)
    exact ih (s := s.answer _) hhalt hrest

/-- Steps that end with HALT clear have it clear throughout. -/
theorem State.stepAll_running (h : s.stepAll inputs = .next t) (ht : t.halt = none) : s.halt = none := by
  rcases hs : s.halt with _ | e
  · rfl
  · rw [State.stepAll_halted hs h] at ht
    cases ht

/-- A batch goes through steps that halt nothing and then on with what is left. -/
theorem State.runBatch_append (h : s.stepAll before = .next t) (ht : t.halt = none) :
    s.runBatch (before ++ after) = t.runBatch after := by
  induction before generalizing s with
  | nil =>
    cases h
    rfl
  | cons input before ih =>
    obtain ⟨u, hu, hrest⟩ := State.stepAll_cons h
    rw [List.cons_append, State.runBatch]
    simp only [hu, State.stepAll_running hrest ht]
    exact ih hrest

/-- R214: a fatal step ends the batch. -/
theorem State.runBatch_of_fatal (h : s.stepWith input = .next u) (hu : u.halt ≠ none) :
    s.runBatch (input :: after) = .next u := by
  obtain ⟨e, he⟩ := Option.ne_none_iff_exists'.mp hu
  rw [State.runBatch]
  simp only [h, he]

/-- A batch that halts nothing is its steps and then the end of the frame. -/
theorem State.runBatch_completed (h : s.runBatch inputs = .next t) (ht : t.halt = none) :
    ∃ u, s.stepAll inputs = .next u ∧ u.halt = none ∧ t = u.endFrame := by
  induction inputs generalizing s with
  | nil =>
    cases h
    exact ⟨s, rfl, s.endFrame_keeps.1.symm.trans ht, rfl⟩
  | cons input rest ih =>
    obtain ⟨v, hv, ⟨hhalt, rfl⟩ | ⟨-, hrest⟩⟩ := s.runBatch_cons h
    · exact absurd ht hhalt
    · obtain ⟨u, hu, hhalt, rfl⟩ := ih hrest
      exact ⟨u, by rw [State.stepAll]; simpa only [hv] using hu, hhalt, rfl⟩

theorem State.tickWith_of_running (hhalt : s.halt = none) (hne : inputs ≠ []) :
    s.tickWith inputs = s.runBatch inputs := by
  obtain ⟨input, rest, rfl⟩ := List.exists_cons_of_ne_nil hne
  simp only [State.tickWith, hhalt]

theorem State.tickWith_nil (hhalt : s.halt = none) : s.tickWith [] = .next s := by
  simp only [State.tickWith, hhalt]

/-- R217: every step that halts nothing adds an entry, up to HIST_CAP. -/
theorem State.length_hist_stepAll (h : s.stepAll inputs = .next t) (ht : t.halt = none)
    (hlen : s.hist.length ≤ s.cfg.histCap) :
    t.hist.length = min (s.hist.length + inputs.length) s.cfg.histCap := by
  induction inputs generalizing s with
  | nil =>
    cases h
    exact (Nat.min_eq_left hlen).symm
  | cons input rest ih =>
    obtain ⟨u, hu, hrest⟩ := State.stepAll_cons h
    have hrun : u.halt = none := State.stepAll_running hrest ht
    obtain ⟨hcfg, -, -⟩ := s.stepWith_keeps hu
    rcases s.stepWith_push_or_fatal hu (State.stepAll_running h ht) with ⟨-, hpush⟩ | ⟨e, he, -⟩
    · have hlen' := length_pushHistory _ _ s.snapshot hlen
      rw [← hpush] at hlen'
      rw [ih hrest (by rw [hcfg, hlen']; split <;> omega), hcfg, hlen', List.length_cons]
      split <;> omega
    · rw [hrun] at he
      cases he

end

/-! ### The end of a frame (R211 to R213) -/

section
variable (s : State)

theorem toNat_decremented (b : Byte) : (decremented b).toNat = b.toNat - 1 := by
  unfold decremented
  split
  · next h => rw [h]; rfl
  · next h => bv_omega

theorem State.cue_keeps : KeepsAllBut [.events] s s.cue := by
  unfold State.cue
  split
  · exact fun p _ => by cases p <;> simp [Part.Same]
  · exact s.emit_keeps _

theorem State.cue_events : s.cue.events = s.events ++ if s.st = 0 then [] else [.audioCue s.st] := by
  unfold State.cue
  split <;> simp

theorem State.endFrame_keepsAllBut : KeepsAllBut [.delayTimer, .soundTimer, .events] s s.endFrame :=
  ((s.setDt_keeps _).trans (State.setSt_keeps _ _)).trans ((State.cue_keeps _).trans (State.emit_keeps _ _)) |>.mono
    (by simp)

theorem State.endFrame_dt : s.endFrame.dt = decremented s.dt :=
  s.countDown.cue_keeps .delayTimer (by simp)

theorem State.endFrame_st : s.endFrame.st = decremented s.st :=
  s.countDown.cue_keeps .soundTimer (by simp)

/-- The cue tests ST after the decrement, and the frame comes last. -/
theorem State.endFrame_events : s.endFrame.events =
    s.events ++ (if s.endFrame.st = 0 then [] else [.audioCue s.endFrame.st]) ++
      [.frame (Framebuffer.cells s.fb)] := by
  rw [s.endFrame_st]
  exact congrArg (· ++ [.frame (Framebuffer.cells s.fb)]) s.countDown.cue_events

end

/-! ### The cells of a frame (R213) -/

theorem length_flatMap_rows (rows : List (Vector Bool 64)) :
    (rows.flatMap fun row => row.toList).length = 64 * rows.length := by
  induction rows with
  | nil => rfl
  | cons row rows ih =>
    rw [List.flatMap_cons, List.length_append, ih, Vector.length_toList, List.length_cons]
    omega

/-- Rows of 64 cells one after the other: cell `col` of row `row` is at 64 × row + col. -/
theorem getElem?_flatMap_rows (rows : List (Vector Bool 64)) (row col : Nat) (hcol : col < 64) :
    (rows.flatMap fun row => row.toList)[64 * row + col]? = rows[row]?.map fun row => row[col] := by
  induction rows generalizing row with
  | nil => rfl
  | cons first rows ih =>
    rw [List.flatMap_cons]
    cases row with
    | zero =>
      rw [List.getElem?_append_left (by simpa using hcol)]
      simp [hcol]
    | succ row =>
      rw [List.getElem?_append_right (by simp; omega), Vector.length_toList,
        show 64 * (row + 1) + col - 64 = 64 * row + col by omega, ih, List.getElem?_cons_succ]

theorem Framebuffer.length_cells (fb : Framebuffer) : (Framebuffer.cells fb).length = 2048 := by
  rw [Framebuffer.cells, length_flatMap_rows, Vector.length_toList]

theorem Framebuffer.getElem?_cells (fb : Framebuffer) (row : Fin 32) (col : Fin 64) :
    (Framebuffer.cells fb)[64 * row.val + col.val]? = some (fb.cell row col) := by
  rw [Framebuffer.cells, getElem?_flatMap_rows _ _ _ col.isLt]
  simp [Framebuffer.cell]

end Sys2Proof.Machine

namespace Sys2Proof.Proofs

open Sys2Proof.Machine

/-- Settles O50: the batch is its steps and then the end of the frame. -/
theorem tickEndsTheFrame : Obligations.TickEndsTheFrame := by
  unfold Obligations.TickEndsTheFrame
  refine ⟨fun fb => ⟨fb.length_cells, fb.getElem?_cells⟩, fun s t inputs hhalt hne hcmd hsteps ht => ?_⟩
  obtain ⟨-, hkeep, -, -⟩ := s.takeCommand_beginCommand_keeps
  have hstep : step s = .next t.endFrame := by
    rw [step_of_tick hcmd, State.tickWith_of_running (hkeep.trans hhalt) hne, ← List.append_nil inputs,
      State.runBatch_append hsteps ht]
    rfl
  refine ⟨_, hstep, ?_, ?_, t.endFrame_events, t.endFrame_keepsAllBut⟩
  · rw [t.endFrame_dt, toNat_decremented]
  · rw [t.endFrame_st, toNat_decremented]

/-- Settles O51: a tick that does not run a batch only answers or does nothing, and a batch ends at a fatal step. -/
theorem tickEdgeCases : Obligations.TickEdgeCases := by
  unfold Obligations.TickEdgeCases
  refine ⟨fun s inputs e hhalt hcmd => ?_, fun s hhalt hcmd => ?_,
    fun s t u before after input hhalt hcmd hbefore ht hstep hu => ?_⟩
  · obtain ⟨rest, hhost⟩ := State.host_of_nextCommand hcmd (by simp)
    refine ⟨_, (step_of_host hhost).trans (State.tickWith_halted (State.beginCommand _) inputs hhalt), rfl, rfl, ?_⟩
    exact ((s.beginCommand_keeps_of_queue rest).trans (State.answer_keeps _ _)).mono (by simp)
  · obtain ⟨rest, hhost⟩ := State.host_of_nextCommand hcmd (by simp)
    exact ⟨_, (step_of_host hhost).trans (State.tickWith_nil (s := State.beginCommand _) hhalt), rfl, rfl,
      s.beginCommand_keeps_of_queue rest⟩
  · obtain ⟨-, hkeep, -, -⟩ := s.takeCommand_beginCommand_keeps
    rw [step_of_tick hcmd, State.tickWith_of_running (hkeep.trans hhalt) (by simp), State.runBatch_append hbefore ht,
      State.runBatch_of_fatal hstep hu]

/-- Settles O52: each step of the batch pushes once, and the end of the frame does not. -/
theorem tickPushesOneSnapshotPerStep : Obligations.TickPushesOneSnapshotPerStep := by
  unfold Obligations.TickPushesOneSnapshotPerStep
  intro s u inputs hinv hhalt hcmd hstep hu
  obtain ⟨-, -, -, hlen⟩ := State.inv_iff.mp hinv
  obtain ⟨-, hkeep, hhist, hcfg⟩ := s.takeCommand_beginCommand_keeps
  rw [step_of_tick hcmd] at hstep
  rw [← hhist, ← hcfg] at hlen ⊢
  rcases State.tickWith_cases _ hstep with ⟨e, he, -⟩ | ⟨-, rfl, rfl⟩ | ⟨-, -, hbatch⟩
  · exact absurd (he.symm.trans (hkeep.trans hhalt)) (by simp)
  · exact (Nat.min_eq_left hlen).symm
  · obtain ⟨t, ht, hrun, rfl⟩ := State.runBatch_completed hbatch hu
    obtain ⟨-, hframe, -⟩ := t.endFrame_keeps
    rw [hframe]
    exact State.length_hist_stepAll ht hrun hlen

end Sys2Proof.Proofs
end

section
/-! SUPPORT. Rewinds after steps and ticks: O43 and O44 (spec/60_exceptions.md R217 to R220). The argument runs over
`State.past`: what each rewind would bring back, which a step shifts by one and a rewind shifts back. -/

namespace Sys2Proof.Machine

/-! ### The snapshots a state can go back to -/

/-- The snapshot that n rewinds bring back: the live one, then the history from its newest entry. -/
def State.past (s : State) (n : Nat) : Option Snapshot := (s.toSnapshot :: s.hist.reverse)[n]?

section
variable {s t u : State} {p : Snapshot}

theorem State.past_zero : s.past 0 = some s.toSnapshot := rfl

theorem State.past_succ (n : Nat) : s.past (n + 1) = s.hist.reverse[n]? := rfl

/-- Past depth 0 only the history counts. -/
theorem State.past_of_hist (h : t.hist = s.hist) {n : Nat} (hn : 0 < n) : t.past n = s.past n := by
  obtain ⟨m, rfl⟩ := Nat.exists_eq_succ_of_ne_zero hn.ne'
  rw [State.past_succ, State.past_succ, h]

/-- A push moves every snapshot one rewind further, as far as the capacity reaches. -/
theorem State.past_of_push {cap : Nat} (h : t.hist = pushHistory cap s.hist s.snapshot) {n : Nat} (hn : n < cap) :
    t.past (n + 1) = s.past n := by
  have happend : (s.hist ++ [s.snapshot]).reverse = s.toSnapshot :: s.hist.reverse := List.reverse_concat
  rw [State.past_succ, State.past, h, pushHistory]
  split
  · next hfull =>
    rw [List.length_append, List.length_singleton] at hfull
    rw [List.reverse_drop, happend, List.getElem?_take_of_lt (by simp; omega)]
  · rw [happend]

/-- A rewind moves every snapshot one rewind nearer. -/
theorem State.past_rewindOnce {n : Nat} (h : s.past (n + 1) = some p) : s.rewindOnce.past n = some p := by
  rcases List.eq_nil_or_concat' s.hist with hnil | ⟨older, q, hconcat⟩
  · rw [State.past_succ, hnil] at h
    cases h
  · rw [State.rewindOnce_of_concat hconcat, ← h, State.past_succ, hconcat, List.reverse_concat]
    rfl

/-! ### Steps and ticks -/

theorem State.stepWith_past {input : Input} (h : s.stepWith input = .next t) (hs : s.halt = none)
    (ht : t.halt = none) {n : Nat} (hn : n < s.cfg.histCap) : t.past (n + 1) = s.past n := by
  rcases s.stepWith_push_or_fatal h hs with ⟨-, hpush⟩ | ⟨e, he, -⟩
  · exact State.past_of_push hpush hn
  · rw [ht] at he
    cases he

theorem State.stepAll_past {inputs : List Input} (h : s.stepAll inputs = .next t) (ht : t.halt = none) {n : Nat}
    (hn : n + inputs.length ≤ s.cfg.histCap) : t.past (n + inputs.length) = s.past n := by
  induction inputs generalizing s n with
  | nil =>
    cases h
    rfl
  | cons input rest ih =>
    obtain ⟨u, hu, hrest⟩ := State.stepAll_cons h
    obtain ⟨hcfg, -, -⟩ := s.stepWith_keeps hu
    rw [List.length_cons] at hn ⊢
    rw [show n + (rest.length + 1) = n + 1 + rest.length by omega, ih hrest (by rw [hcfg]; omega)]
    exact State.stepWith_past hu (State.stepAll_running h ht) (State.stepAll_running hrest ht) (by omega)

theorem State.tickWith_past {inputs : List Input} (h : s.tickWith inputs = .next t) (ht : t.halt = none) {n : Nat}
    (hn : n + inputs.length ≤ s.cfg.histCap) : t.past (n + inputs.length) = s.past n := by
  rcases s.tickWith_cases h with ⟨e, he, rfl⟩ | ⟨-, rfl, rfl⟩ | ⟨-, hne, hbatch⟩
  · exact absurd (he.symm.trans ht) (by simp)
  · rfl
  · obtain ⟨u, hu, hrun, rfl⟩ := State.runBatch_completed hbatch ht
    obtain ⟨-, hhist, -⟩ := u.endFrame_keeps
    have hpos : 0 < inputs.length := List.length_pos_of_ne_nil hne
    rw [State.past_of_hist hhist (by omega), State.stepAll_past hu hrun hn]

theorem State.stepWith_host {input : Input} (h : s.stepWith input = .next t) : t.host = s.host := by
  obtain ⟨-, hhost, -⟩ := s.stepWith_keeps h
  exact hhost

theorem State.tickWith_host {inputs : List Input} (h : s.tickWith inputs = .next t) : t.host = s.host :=
  State.tickWith_induction (P := fun u => u.host = s.host)
    (fun hu hstep => (State.stepWith_host hstep).trans hu) (fun u hu => by simpa using hu) (fun _ _ hu => hu) rfl h

section
variable {c : Command} {more : List Command} (hc : c.isStepping = true) (hhost : s.host = c :: more)
  (h : step s = .next t)
include hc hhost h

theorem step_stepping_host : t.host = more := by
  have hrun : State.runCommand { s with host := more } c = .next t := (step_of_host hhost).symm.trans h
  cases c with
  | step input => exact State.stepWith_host (s := State.beginCommand _) hrun
  | tick inputs => exact State.tickWith_host (s := State.beginCommand _) hrun
  | _ => cases hc

/-- A stepping command that leaves HALT clear met it clear. -/
theorem step_stepping_halt (ht : t.halt = none) : s.halt = none := by
  have hnext : s.nextCommand = c := by simp only [State.nextCommand, hhost]
  rcases hhalt : s.halt with _ | e
  · rfl
  · rcases Proofs.onlyResetOrLoadClearsHalt s t e hhalt h ht with hreset | ⟨bytes, hload, -⟩
    · rw [← hnext, hreset] at hc
      cases hc
    · rw [← hnext, hload] at hc
      cases hc

/-- A stepping command that halts nothing moves every snapshot as many rewinds further as it has steps. -/
theorem step_stepping_past (ht : t.halt = none) {n : Nat} (hn : n + c.steps ≤ s.cfg.histCap) :
    t.past (n + c.steps) = s.past n := by
  have hs := step_stepping_halt hc hhost h ht
  have hrun : State.runCommand { s with host := more } c = .next t := (step_of_host hhost).symm.trans h
  cases c with
  | step input => exact State.stepWith_past (s := State.beginCommand _) hrun hs ht hn
  | tick inputs => exact State.tickWith_past (s := State.beginCommand _) hrun ht hn
  | _ => cases hc

end

/-! ### Runs -/

theorem run_succ {k : Nat} (h : core.run (k + 1) s = .next t) :
    ∃ u : State, step s = .next u ∧ core.run k u = .next t := by
  have hcore : core.step s = step s := rfl
  simp only [Host.Core.run, hcore] at h
  rcases hstep : step s with u | r | r <;> rw [hstep] at h
  · exact ⟨u, rfl, h⟩
  · cases h
  · cases h

theorem run_of_step {k : Nat} (h : step s = .next u) : core.run (k + 1) s = core.run k u := by
  have hcore : core.step s = .next u := h
  simp only [Host.Core.run, hcore]

/-- A run of stepping commands moves every snapshot as many rewinds further as they have steps together. -/
theorem run_stepping {cs more : List Command} (hcs : ∀ c ∈ cs, c.isStepping = true) (hhost : s.host = cs ++ more)
    (h : core.run cs.length s = .next t) (ht : t.halt = none) : s.halt = none ∧ t.host = more ∧
      ∀ n, n + (cs.map Command.steps).sum ≤ s.cfg.histCap → t.past (n + (cs.map Command.steps).sum) = s.past n := by
  induction cs generalizing s with
  | nil =>
    cases h
    exact ⟨ht, hhost, fun n _ => rfl⟩
  | cons c cs ih =>
    obtain ⟨hc, hcs⟩ := List.forall_mem_cons.mp hcs
    obtain ⟨u, hu, hrest⟩ := run_succ h
    obtain ⟨hrun, hhost', hpast⟩ := ih hcs (step_stepping_host hc hhost hu) hrest
    refine ⟨step_stepping_halt hc hhost hu hrun, hhost', fun n hn => ?_⟩
    rw [List.map_cons, List.sum_cons] at hn ⊢
    rw [← Nat.add_assoc, hpast _ (by rw [Proofs.noStepChangesConfig s u hu]; omega)]
    exact step_stepping_past hc hhost hu hrun (by omega)

/-- As many rewinds as reach a snapshot bring it back. -/
theorem run_rewinds {n : Nat} {rest : List Command} (hhost : s.host = List.replicate n .rewind ++ rest)
    (hs : s.halt = none) (h : s.past n = some p) :
    ∃ u : State, core.run n s = .next u ∧ u.toSnapshot = p ∧ u.halt = none := by
  induction n generalizing s with
  | zero => exact ⟨s, rfl, Option.some.inj h, hs⟩
  | succ n ih =>
    rw [List.replicate_succ, List.cons_append] at hhost
    have hpast := State.past_rewindOnce
      (s := State.beginCommand { s with host := List.replicate n .rewind ++ rest }) h
    obtain ⟨-, hhalt, hhost'⟩ :=
      State.rewindOnce_keeps (State.beginCommand { s with host := List.replicate n .rewind ++ rest })
    rw [run_of_step (step_of_host hhost)]
    exact ih hhost' (hhalt.trans hs) hpast

end

end Sys2Proof.Machine

namespace Sys2Proof.Proofs

open Sys2Proof.Machine

/-- Settles O43: the step pushed the state it started from, and the rewind takes that entry off again. -/
theorem stepThenRewindRestores : Obligations.StepThenRewindRestores := by
  unfold Obligations.StepThenRewindRestores
  intro s t input rest hinv hhalt hhost hstep ht
  obtain ⟨hcfg, -, -, hlen⟩ := State.inv_iff.mp hinv
  obtain ⟨-, -, hcap⟩ := s.cfg.wf_iff.mp hcfg
  have hrun : State.stepWith (State.beginCommand { s with host := .rewind :: rest }) input = .next t :=
    (step_of_host hhost).symm.trans hstep
  have hpush : t.hist = pushHistory s.cfg.histCap s.hist s.snapshot := by
    rcases State.stepWith_push_or_fatal _ hrun hhalt with ⟨-, hpush⟩ | ⟨e, he, -⟩
    · exact hpush
    · exact absurd (he.symm.trans ht) (by simp)
  have hhost' : t.host = .rewind :: rest := State.stepWith_host hrun
  have hlast : t.hist.dropLast ++ [s.snapshot] = t.hist := by
    refine List.dropLast_append_getLast? _ ?_
    rw [hpush, getLast?_pushHistory _ _ _ hcap]
    rfl
  have hdrop : t.hist.dropLast = if s.hist.length = s.cfg.histCap then s.hist.drop 1 else s.hist := by
    rw [hpush, dropLast_pushHistory _ _ _ hcap hlen]
  have hrewind := (step_of_host hhost').trans (congrArg Host.Outcome.next
    (State.rewindOnce_of_concat (s := State.beginCommand { t with host := rest }) hlast.symm))
  refine ⟨_, hrewind, rfl, ht, rfl, fun hfree => ?_, fun hfull => ?_⟩
  · exact hdrop.trans (if_neg hfree.ne)
  · exact hdrop.trans (if_pos hfull)

/-- Settles O44: the steps move the first snapshot n rewinds away, and n rewinds bring it back. -/
theorem rewindsUndoStepsAndTicks : Obligations.RewindsUndoStepsAndTicks := by
  unfold Obligations.RewindsUndoStepsAndTicks
  intro s t cs rest hinv hhalt hcs hcap hhost hrun ht
  obtain ⟨-, hhost', hpast⟩ := run_stepping hcs hhost hrun ht
  refine run_rewinds hhost' ht ?_
  simpa only [Nat.zero_add, State.past_zero] using hpast 0 (by omega)

end Sys2Proof.Proofs
end
